-- ==== Sys2Proof/Word.lean ====
section
/-! DEFINITION. The word types of the M-Bus frame engine (spec/00_scope.md R8: a byte is 8 bits, unsigned;
bit 0 is the least significant bit). -/

namespace Sys2Proof

/-- A byte of the wire or of a buffer (R8). -/
abbrev Byte := BitVec 8

/-- The 64-bit secondary address operand; byte `i` is bits `8i+7 : 8i` (spec/10_state.md R23, spec/20_memory.md R57). -/
abbrev SecAddr := BitVec 64

/-- The 124-bit command word of the host port (spec/30_encoding.md R81). -/
abbrev CommandWord := BitVec 124

end Sys2Proof
end

