-- ==== Sys2Proof/Config.lean ====
section
/-! DEFINITION. The implementation parameters of spec/00_scope.md R6, and the one free value of the model:
the contents of a buffer byte that nothing has written since reset. -/

namespace Sys2Proof

/-- The three byte memories of the engine (spec/10_state.md R32). -/
inductive Buffer where
  | payload
  | txbuf
  | rxbuf
  deriving DecidableEq, Repr

/-- The two open parameters a model takes as arguments (spec/00_scope.md R6, spec/92_eei_decisions.md D7, D12).
They are fixed at build time: no step writes them. -/
structure Config where
  /-- `POLL_MS`, the polling increment of the elapsed-time counter in milliseconds. -/
  pollMs : BitVec 32
  /-- `RX_INTEGRITY_CHECK`: whether the integrity checks gate the classification (R130). -/
  rxIntegrityCheck : Bool
  deriving DecidableEq, Repr

/-- The values R6 gives the two parameters: `POLL_MS = 100`, `RX_INTEGRITY_CHECK = 1`. -/
def Config.standard : Config := { pollMs := 100#32, rxIntegrityCheck := true }

/-- The free value (spec/93_implementation_defined.md U3, U6, U7, U14; spec/10_state.md R35): what a buffer byte
that holds no value reads as. It has no body, so nothing can be proved of it. `draw` is the model's own counter
`State.draws`, which every step advances, so two steps draw independently (log entry 5). -/
opaque Config.unspecifiedByte (draw : Nat) (buf : Buffer) (index : Nat) : Byte

/-- `MAX_FRAME`: size of `TXBUF` and of `RXBUF` (R6, R32). -/
abbrev maxFrame : Nat := 261

/-- `MAX_PAYLOAD`: the size of `PAYLOAD`, and the longest payload `ENC_LONG` accepts (R6, R51, R102). -/
abbrev maxPayload : Nat := 250

/-- `TIMEOUT_DEFAULT`: the reset value of `TIMEOUT` (R6, R29). -/
def timeoutDefault : BitVec 32 := 300#32

end Sys2Proof
end

