-- ==== Sys2Proof/Machine/Codec.lean ====
section
/-! DEFINITION. The frame codec and checksum calculator (spec/40_frame_codec.md R100 to R106): pure functions of
their operands. -/

namespace Sys2Proof.Machine

/-- `CHECKSUM(s)`, the sum of the bytes modulo 256 (R100). -/
def sum8 (bytes : List Byte) : Byte := bytes.foldl (fun acc b => acc + b) 0#8

/-- The five bytes of a short frame, with the checksum byte as given (R71). -/
def shortBytes (cf af cs : Byte) : List Byte := [0x10#8, cf, af, cs, 0x16#8]

/-- The length byte `L = 3 + n` of a long frame (R72, R74). -/
def lengthByte (payload : List Byte) : Byte := BitVec.ofNat 8 (3 + payload.length)

/-- The `9 + n` bytes of a long frame, with the checksum byte as given (R72). -/
def longBytes (cf af ci : Byte) (payload : List Byte) (cs : Byte) : List Byte :=
  [0x68#8, lengthByte payload, lengthByte payload, 0x68#8, cf, af, ci] ++ payload ++ [cs, 0x16#8]

/-- `ENC_SINGLE()` (R103). -/
def encSingle : List Byte := [0xE5#8]

/-- `ENC_SHORT(address, controlField)` on operands already masked to one byte (R101). The control field comes first
on the wire. -/
def encShort (address controlField : Byte) : List Byte :=
  shortBytes controlField address (sum8 [controlField, address])

/-- The mask to one byte that `ENC_SHORT` applies to its integer operands (R101). -/
def maskByte (x : Int) : Byte := BitVec.ofInt 8 x

/-- `ENC_LONG(address, controlField, ci, payload)`; `none` is the failure `PayloadTooLarge`, exactly when the payload
has more than 250 bytes (R102). -/
def encLong (address controlField ci : Byte) (payload : List Byte) : Option (List Byte) :=
  if payload.length ≤ maxPayload then
    some (longBytes controlField address ci payload (sum8 ([controlField, address, ci] ++ payload)))
  else none

end Sys2Proof.Machine
end

