-- ==== Sys2Proof/Syntax.lean ====
section
/-! DEFINITION. The instructions: one constructor per row of spec/opcode_table.json (spec/30_encoding.md R88):
the three wire frame shapes, the eight request frames, the nine host commands, the seven reserved command opcodes
and the twelve unit functions. -/

namespace Sys2Proof

/-- The eight bus operations (spec/43_field_mux_and_operations.md R140), the operand of `MUX`. -/
inductive BusOp where
  | poll
  | write
  | select
  | deselect
  | scan
  | selro
  | rstro
  | linkreset
  deriving DecidableEq, Repr

/-- The instructions.

A wire row (R70 to R72) carries the bytes of the frame that its shape leaves open: the start bytes, the stop byte and
the two length bytes are fixed by the shape (the length is `3 + n`), the checksum byte is carried as it stands on the
line, so that a frame with a wrong checksum is a term too (WellFormed refuses it, the receiver still takes it).

A command row carries all four operands of the command word, also those it does not use: a command ignores the
operands it does not use, and they are still latched (R81).

A unit function carries its own operands (spec/40_frame_codec.md to spec/43_field_mux_and_operations.md). -/
inductive Instr where
  -- wire frame shapes
  | singleCharacter
  | shortFrame (cf af cs : Byte)
  | longFrame (cf af ci : Byte) (payload : List Byte) (cs : Byte)
  -- request frames
  | reqUd2Fcb1 (af cs : Byte)
  | reqUd2Fcb0 (af cs : Byte)
  | sndNke (af cs : Byte)
  | sndUdWrite (af : Byte) (payload : List Byte) (cs : Byte)
  | sndUdSelect (payload : List Byte) (cs : Byte)
  | sndUdDeselect (payload : List Byte) (cs : Byte)
  | sndUdReadoutSelection (af : Byte) (payload : List Byte) (cs : Byte)
  | sndUdReadoutReset (af : Byte) (payload : List Byte) (cs : Byte)
  -- host commands
  | poll (addr : Byte) (sec : SecAddr) (plen : BitVec 16) (tmo : BitVec 32)
  | write (addr : Byte) (sec : SecAddr) (plen : BitVec 16) (tmo : BitVec 32)
  | select (addr : Byte) (sec : SecAddr) (plen : BitVec 16) (tmo : BitVec 32)
  | deselect (addr : Byte) (sec : SecAddr) (plen : BitVec 16) (tmo : BitVec 32)
  | scan (addr : Byte) (sec : SecAddr) (plen : BitVec 16) (tmo : BitVec 32)
  | selro (addr : Byte) (sec : SecAddr) (plen : BitVec 16) (tmo : BitVec 32)
  | rstro (addr : Byte) (sec : SecAddr) (plen : BitVec 16) (tmo : BitVec 32)
  | linkreset (addr : Byte) (sec : SecAddr) (plen : BitVec 16) (tmo : BitVec 32)
  | settimeout (addr : Byte) (sec : SecAddr) (plen : BitVec 16) (tmo : BitVec 32)
  -- reserved command opcodes
  | reserved0 (addr : Byte) (sec : SecAddr) (plen : BitVec 16) (tmo : BitVec 32)
  | reservedA (addr : Byte) (sec : SecAddr) (plen : BitVec 16) (tmo : BitVec 32)
  | reservedB (addr : Byte) (sec : SecAddr) (plen : BitVec 16) (tmo : BitVec 32)
  | reservedC (addr : Byte) (sec : SecAddr) (plen : BitVec 16) (tmo : BitVec 32)
  | reservedD (addr : Byte) (sec : SecAddr) (plen : BitVec 16) (tmo : BitVec 32)
  | reservedE (addr : Byte) (sec : SecAddr) (plen : BitVec 16) (tmo : BitVec 32)
  | reservedF (addr : Byte) (sec : SecAddr) (plen : BitVec 16) (tmo : BitVec 32)
  -- unit functions
  | checksum (bytes : List Byte)
  | encSingle
  | encShort (address controlField : Int)
  | encLong (address controlField ci : Byte) (payload : List Byte)
  | fcbNext (a : Byte)
  | fcbReset (a : Byte)
  | fcbInit
  | rxArm
  | rxByte (b : Byte)
  | rxTick
  | rxClassify
  | mux (op : BusOp)
  deriving DecidableEq, Repr

end Sys2Proof
end

