-- ==== Sys2Proof/WellFormed.lean ====
section
/-! DEFINITION. When an instruction term is one the spec's encodings admit: the checksum of a frame is the one its
rule gives, its payload has an admitted length, and a frame that has a row of its own is not written as the general
shape. -/

namespace Sys2Proof

/-- The control fields of the three short request frames (spec/30_encoding.md R76): a short frame with one of them
has a row of its own. -/
def shortRowOwn (cf : Byte) : Bool := cf == 0x7B#8 || cf == 0x5B#8 || cf == 0x40#8

/-- Whether a long frame with these fields and `n` payload bytes is one of the five `SND_UD` request frames
(R76, R77 and the request rows of the opcode table: `n ≤ 250`, for select and deselect `n = 8`). -/
def longRowOwn (cf af ci : Byte) (n : Nat) : Bool :=
  (cf == 0x73#8 && ci == 0x51#8 && decide (n ≤ maxPayload)) ||
  (cf == 0x53#8 && af == 0xFD#8 && ci == 0x52#8 && n == 8) ||
  (cf == 0x53#8 && af == 0xFD#8 && ci == 0x56#8 && n == 8) ||
  (cf == 0x53#8 && ci == 0x51#8 && decide (n ≤ maxPayload)) ||
  (cf == 0x53#8 && ci == 0x50#8 && decide (n ≤ maxPayload))

/-- The checksum byte of a short frame is `(CF + AF) mod 256` (R71). -/
def shortSumOk (cf af cs : Byte) : Bool := cs == Machine.sum8 [cf, af]

/-- The checksum byte of a long frame is the sum of `CF`, `AF`, `CI` and the payload (R72, R73). -/
def longSumOk (cf af ci : Byte) (payload : List Byte) (cs : Byte) : Bool :=
  cs == Machine.sum8 ([cf, af, ci] ++ payload)

/-- The check of a term. Command terms need none: their operands have the widths of the command word (R81). -/
def WellFormed : Instr → Bool
  | .singleCharacter => true
  | .shortFrame cf af cs => shortSumOk cf af cs && !shortRowOwn cf
  | .longFrame cf af ci p cs =>
      longSumOk cf af ci p cs && decide (p.length ≤ 252) && !longRowOwn cf af ci p.length
  | .reqUd2Fcb1 af cs => shortSumOk 0x7B#8 af cs
  | .reqUd2Fcb0 af cs => shortSumOk 0x5B#8 af cs
  | .sndNke af cs => shortSumOk 0x40#8 af cs
  | .sndUdWrite af p cs => longSumOk 0x73#8 af 0x51#8 p cs && decide (p.length ≤ maxPayload)
  | .sndUdSelect p cs => longSumOk 0x53#8 0xFD#8 0x52#8 p cs && p.length == 8
  | .sndUdDeselect p cs => longSumOk 0x53#8 0xFD#8 0x56#8 p cs && p.length == 8
  | .sndUdReadoutSelection af p cs => longSumOk 0x53#8 af 0x51#8 p cs && decide (p.length ≤ maxPayload)
  | .sndUdReadoutReset af p cs => longSumOk 0x53#8 af 0x50#8 p cs && decide (p.length ≤ maxPayload)
  | .poll _ _ _ _ => true
  | .write _ _ _ _ => true
  | .select _ _ _ _ => true
  | .deselect _ _ _ _ => true
  | .scan _ _ _ _ => true
  | .selro _ _ _ _ => true
  | .rstro _ _ _ _ => true
  | .linkreset _ _ _ _ => true
  | .settimeout _ _ _ _ => true
  | .reserved0 _ _ _ _ => true
  | .reservedA _ _ _ _ => true
  | .reservedB _ _ _ _ => true
  | .reservedC _ _ _ _ => true
  | .reservedD _ _ _ _ => true
  | .reservedE _ _ _ _ => true
  | .reservedF _ _ _ _ => true
  | .checksum bytes => decide (bytes.length ≤ 253)
  | .encSingle => true
  | .encShort _ _ => true
  | .encLong _ _ _ p => decide (p.length ≤ 65535)
  | .fcbNext _ => true
  | .fcbReset _ => true
  | .fcbInit => true
  | .rxArm => true
  | .rxByte _ => true
  | .rxTick => true
  | .rxClassify => true
  | .mux _ => true

end Sys2Proof
end

