-- ==== Sys2Proof/Decode.lean ====
section
/-! DEFINITION. Decoding and encoding: the 124-bit command word (spec/30_encoding.md R80 to R82) and the wire frames
(R70 to R79), both total; a wire byte sequence that is no frame is rejected by name. The unit functions have no bit
pattern (R88). -/

namespace Sys2Proof

/-- The two encodings of the machine: a word on the command port, a byte sequence on the line. -/
inductive Code where
  | command (w : CommandWord)
  | wire (bytes : List Byte)
  deriving DecidableEq, Repr

/-- Why a byte sequence is no frame. -/
inductive DecodeError where
  /-- No byte at all. -/
  | empty
  /-- The first byte is none of `E5`, `10`, `68` (R79, R83). -/
  | unknownStart
  /-- The sequence is shorter or longer than its frame (R70 to R72, R79). -/
  | wrongLength
  /-- The length byte is below 3, so there is no room for `CF`, `AF`, `CI` (R84). -/
  | lengthTooSmall
  /-- The two length bytes differ (R73). -/
  | lengthMismatch
  /-- The second start byte is not `68` (R72). -/
  | secondStart
  /-- The last byte is not `16` (R71, R72). -/
  | stopByte
  deriving DecidableEq, Repr

/-! ### The command word -/

/-- The command word of five fields (R81): `cmd_op` 123:120, `cmd_addr` 119:112, `cmd_sec` 111:48, `cmd_plen` 47:32,
`cmd_tmo` 31:0. -/
def commandWord (op : BitVec 4) (addr : Byte) (sec : SecAddr) (plen : BitVec 16) (tmo : BitVec 32) : CommandWord :=
  op ++ addr ++ sec ++ plen ++ tmo

/-- `cmd_op` (R81). -/
def cmdOp (w : CommandWord) : BitVec 4 := w.extractLsb' 120 4
/-- `cmd_addr` (R81). -/
def cmdAddr (w : CommandWord) : Byte := w.extractLsb' 112 8
/-- `cmd_sec` (R81). -/
def cmdSec (w : CommandWord) : SecAddr := w.extractLsb' 48 64
/-- `cmd_plen` (R81). -/
def cmdPlen (w : CommandWord) : BitVec 16 := w.extractLsb' 32 16
/-- `cmd_tmo` (R81). -/
def cmdTmo (w : CommandWord) : BitVec 32 := w.extractLsb' 0 32

/-- The command an opcode names (R80, R82). Every one of the sixteen opcodes names a row; the last pattern is met by
15 only. -/
def commandOf (op : BitVec 4) (addr : Byte) (sec : SecAddr) (plen : BitVec 16) (tmo : BitVec 32) : Instr :=
  match op.toNat with
  | 0 => .reserved0 addr sec plen tmo
  | 1 => .poll addr sec plen tmo
  | 2 => .write addr sec plen tmo
  | 3 => .select addr sec plen tmo
  | 4 => .deselect addr sec plen tmo
  | 5 => .scan addr sec plen tmo
  | 6 => .selro addr sec plen tmo
  | 7 => .rstro addr sec plen tmo
  | 8 => .linkreset addr sec plen tmo
  | 9 => .settimeout addr sec plen tmo
  | 10 => .reservedA addr sec plen tmo
  | 11 => .reservedB addr sec plen tmo
  | 12 => .reservedC addr sec plen tmo
  | 13 => .reservedD addr sec plen tmo
  | 14 => .reservedE addr sec plen tmo
  | _ => .reservedF addr sec plen tmo

/-- Command decode, by `cmd_op` alone (spec/44_session_control.md R170). -/
def decodeCommand (w : CommandWord) : Instr :=
  commandOf (cmdOp w) (cmdAddr w) (cmdSec w) (cmdPlen w) (cmdTmo w)

/-! ### The wire frames -/

/-- The row of a short frame (R71, R76). -/
def shortRow (cf af cs : Byte) : Instr :=
  if cf = 0x7B#8 then .reqUd2Fcb1 af cs
  else if cf = 0x5B#8 then .reqUd2Fcb0 af cs
  else if cf = 0x40#8 then .sndNke af cs
  else .shortFrame cf af cs

/-- The row of a long frame (R72, R76, R77). -/
def longRow (cf af ci : Byte) (p : List Byte) (cs : Byte) : Instr :=
  if cf = 0x73#8 ∧ ci = 0x51#8 ∧ p.length ≤ maxPayload then .sndUdWrite af p cs
  else if cf = 0x53#8 ∧ af = 0xFD#8 ∧ ci = 0x52#8 ∧ p.length = 8 then .sndUdSelect p cs
  else if cf = 0x53#8 ∧ af = 0xFD#8 ∧ ci = 0x56#8 ∧ p.length = 8 then .sndUdDeselect p cs
  else if cf = 0x53#8 ∧ ci = 0x51#8 ∧ p.length ≤ maxPayload then .sndUdReadoutSelection af p cs
  else if cf = 0x53#8 ∧ ci = 0x50#8 ∧ p.length ≤ maxPayload then .sndUdReadoutReset af p cs
  else .longFrame cf af ci p cs

/-- A short frame after its start byte (R71). -/
def decodeShort : List Byte → Except DecodeError Instr
  | [cf, af, cs, stop] => if stop = 0x16#8 then .ok (shortRow cf af cs) else .error .stopByte
  | _ => .error .wrongLength

/-- A long frame after its start byte; its whole length is `L + 6` (R72, R79). -/
def decodeLong : List Byte → Except DecodeError Instr
  | l :: l2 :: start2 :: cf :: af :: ci :: rest =>
    if l.toNat < 3 then .error .lengthTooSmall
    else if l2 ≠ l then .error .lengthMismatch
    else if start2 ≠ 0x68#8 then .error .secondStart
    else
      match rest.drop (l.toNat - 3) with
      | [cs, stop] =>
        if stop = 0x16#8 then .ok (longRow cf af ci (rest.take (l.toNat - 3)) cs) else .error .stopByte
      | _ => .error .wrongLength
  | _ => .error .wrongLength

/-- The frame a byte sequence is, told by its first byte (R79). -/
def decodeWire : List Byte → Except DecodeError Instr
  | [] => .error .empty
  | b :: rest =>
    if b = 0xE5#8 then
      match rest with
      | [] => .ok .singleCharacter
      | _ :: _ => .error .wrongLength
    else if b = 0x10#8 then decodeShort rest
    else if b = 0x68#8 then decodeLong rest
    else .error .unknownStart

/-- The decoder of both encodings. -/
def decode : Code → Except DecodeError Instr
  | .command w => .ok (decodeCommand w)
  | .wire bytes => decodeWire bytes

/-! ### The encoder -/

/-- The encoding of an instruction; a unit function has none (R88). -/
def encode : Instr → Option Code
  | .singleCharacter => some (.wire Machine.encSingle)
  | .shortFrame cf af cs => some (.wire (Machine.shortBytes cf af cs))
  | .longFrame cf af ci p cs => some (.wire (Machine.longBytes cf af ci p cs))
  | .reqUd2Fcb1 af cs => some (.wire (Machine.shortBytes 0x7B#8 af cs))
  | .reqUd2Fcb0 af cs => some (.wire (Machine.shortBytes 0x5B#8 af cs))
  | .sndNke af cs => some (.wire (Machine.shortBytes 0x40#8 af cs))
  | .sndUdWrite af p cs => some (.wire (Machine.longBytes 0x73#8 af 0x51#8 p cs))
  | .sndUdSelect p cs => some (.wire (Machine.longBytes 0x53#8 0xFD#8 0x52#8 p cs))
  | .sndUdDeselect p cs => some (.wire (Machine.longBytes 0x53#8 0xFD#8 0x56#8 p cs))
  | .sndUdReadoutSelection af p cs => some (.wire (Machine.longBytes 0x53#8 af 0x51#8 p cs))
  | .sndUdReadoutReset af p cs => some (.wire (Machine.longBytes 0x53#8 af 0x50#8 p cs))
  | .poll a s n t => some (.command (commandWord 0x1#4 a s n t))
  | .write a s n t => some (.command (commandWord 0x2#4 a s n t))
  | .select a s n t => some (.command (commandWord 0x3#4 a s n t))
  | .deselect a s n t => some (.command (commandWord 0x4#4 a s n t))
  | .scan a s n t => some (.command (commandWord 0x5#4 a s n t))
  | .selro a s n t => some (.command (commandWord 0x6#4 a s n t))
  | .rstro a s n t => some (.command (commandWord 0x7#4 a s n t))
  | .linkreset a s n t => some (.command (commandWord 0x8#4 a s n t))
  | .settimeout a s n t => some (.command (commandWord 0x9#4 a s n t))
  | .reserved0 a s n t => some (.command (commandWord 0x0#4 a s n t))
  | .reservedA a s n t => some (.command (commandWord 0xA#4 a s n t))
  | .reservedB a s n t => some (.command (commandWord 0xB#4 a s n t))
  | .reservedC a s n t => some (.command (commandWord 0xC#4 a s n t))
  | .reservedD a s n t => some (.command (commandWord 0xD#4 a s n t))
  | .reservedE a s n t => some (.command (commandWord 0xE#4 a s n t))
  | .reservedF a s n t => some (.command (commandWord 0xF#4 a s n t))
  | .checksum _ => none
  | .encSingle => none
  | .encShort _ _ => none
  | .encLong _ _ _ _ => none
  | .fcbNext _ => none
  | .fcbReset _ => none
  | .fcbInit => none
  | .rxArm => none
  | .rxByte _ => none
  | .rxTick => none
  | .rxClassify => none
  | .mux _ => none

/-! ### The words of the opcode table -/

/-- The `k` low bytes of a number, the least significant first. -/
def bytesOf : Nat → Nat → List Byte
  | 0, _ => []
  | k + 1, w => BitVec.ofNat 8 w :: bytesOf k (w / 256)

/-- Whether a byte sequence is a frame. -/
def isFrame (bytes : List Byte) : Bool :=
  match decodeWire bytes with
  | .ok _ => true
  | .error _ => false

/-- What the `nbits` bits of `w` are: the 124-bit command word (its bit 0 is `cmd_tmo` bit 0), or else the bytes of a
frame with the first byte in bits 7..0. The table's own `match` and `mask` of a request frame number a frame the other
way round, first byte most significant (R88): a number that is a frame only in that order is read so (log entry 9). -/
def tableCode (nbits w : Nat) : Code :=
  if (nbits = 124 ∨ nbits = 128) ∧ w < 2 ^ 124 then .command (BitVec.ofNat 124 w)
  else
    let bytes := bytesOf (nbits / 8) w
    if !isFrame bytes && isFrame bytes.reverse then .wire bytes.reverse else .wire bytes

/-- The instruction the decoder reads from an opcode-table word. -/
def decodeTableWord (nbits w : Nat) : Option Instr :=
  match decode (tableCode nbits w) with
  | .ok i => some i
  | .error _ => none

end Sys2Proof
end

