-- ==== Sys2Proof/Machine/State.lean ====
section
/-! DEFINITION. The state of the engine (spec/10_state.md), its events (spec/00_scope.md R10), its output of the unit
functions, the two reason types and the state after reset (R35). -/

namespace Sys2Proof.Machine

/-- A byte memory: (index, byte) pairs, indices strictly rising. An index that is not listed holds no value: nothing
has written it since reset (R35, log entry 4). -/
abbrev Memory := List Host.Cell

/-- `SEQ`, the sequencer phase (R24). The reserved encoding 3 is never entered and the type lacks it
(spec/93_implementation_defined.md U8). -/
inductive Seq where
  | idle
  | send
  | recv
  deriving DecidableEq, Repr

/-- `RXS`, the receiver state (R30). The reserved encoding 7 is never entered and the type lacks it (U8). -/
inductive RxState where
  | idle
  | awaitFirst
  | awaitLen
  | lenKnown
  | complete
  | timedOut
  | incomplete
  deriving DecidableEq, Repr

/-- `RES_CODE` (spec/60_exceptions.md R180). Codes 8 and 9 name errors of collaborators and are never produced. -/
inductive ResultCode where
  | ok
  | notOpen
  | invalidArgument
  | payloadTooLarge
  | ioError
  | timeout
  | incompleteMessage
  | unexpectedMessageType
  | decodingError
  | connectionError
  deriving DecidableEq, Repr

/-- `RES_CLASS` (R26, R130). `short` is defined and never produced (U5). -/
inductive FrameClass where
  | none
  | single
  | short
  | rspUd
  | malformed
  deriving DecidableEq, Repr

/-- The result registers (R26); the default of every field is its cleared value. -/
structure Results where
  /-- `RES_CODE`. -/
  code : ResultCode := .ok
  /-- `RES_FLAG`. -/
  flag : Bool := false
  /-- `RES_CLASS`. -/
  cls : FrameClass := .none
  /-- `RES_CF`. -/
  cf : Byte := 0#8
  /-- `RES_AF`. -/
  af : Byte := 0#8
  /-- `RES_CI`. -/
  ci : Byte := 0#8
  /-- `RES_PLEN`. -/
  plen : Byte := 0#8
  /-- `RES_AFMIS`. -/
  afmis : Bool := false
  /-- `RES_INTEG`. -/
  integ : BitVec 5 := 0#5
  deriving DecidableEq, Repr

/-- The payload source the field multiplexer selects (spec/43_field_mux_and_operations.md R141). -/
inductive PayloadSource where
  /-- `PAYLOAD[0 .. n-1]`. -/
  | hostPayload (n : BitVec 16)
  /-- `SEC[0..7]`. -/
  | secondary
  deriving DecidableEq, Repr

/-- What `MUX` answers (R140): the kind of frame, its fields and its payload source. -/
inductive FrameFields where
  | short (cf af : Byte)
  | long (cf af ci : Byte) (src : PayloadSource)
  deriving DecidableEq, Repr

/-- The answer of a unit function that is invoked by itself. It is the model's own output, not a register of the
engine: the units answer to the sequencer (log entry 8). -/
inductive UnitOut where
  /-- No unit function was invoked by itself since reset. -/
  | nothing
  /-- A byte sequence: `CHECKSUM` (one byte), `ENC_SINGLE`, `ENC_SHORT`, `ENC_LONG`. -/
  | bytes (bs : List Byte)
  /-- The control byte of `FCB_NEXT`. -/
  | controlField (cf : Byte)
  /-- The fields of `MUX`. -/
  | fields (f : FrameFields)
  /-- `ENC_LONG` failed with this error. -/
  | failed (code : ResultCode)
  deriving DecidableEq, Repr

/-- The events of R10, told apart by who brings them about. `reset` carries the level `link_open` has at that moment,
which R31 and R200 read. `E_CMD` and `E_RXBYTE` need what the host or the transport offers: `cmd` and `rxbyte` are a
word or a byte newly offered, `offerCommand` and `offerByte` the moment in which what they hold already is offered
(R127, R174; log entry 1). `frame` stands for all byte events of one frame crossing the line (log entry 7). -/
inductive Event where
  /-- `E_RESET`. -/
  | reset (linkOpen : Bool)
  /-- `E_LINK(b)`. -/
  | link (level : Bool)
  /-- `E_PAYWR(i, v)`. -/
  | paywr (index : BitVec 8) (value : Byte)
  /-- `E_CMD(op, addr, sec, plen, tmo)`: the host has a command word more, and offers its first. -/
  | cmd (w : CommandWord)
  /-- `E_CMD` of the first command word the host holds. -/
  | offerCommand
  /-- `E_TXACK`. -/
  | txack
  /-- `E_TXERR`. -/
  | txerr
  /-- `E_RXBYTE(b)`: the transport has a byte more, and offers its first. -/
  | rxbyte (b : Byte)
  /-- `E_RXBYTE` of the first byte the transport holds. -/
  | offerByte
  /-- `E_TICK`. -/
  | tick
  /-- A whole frame crosses the line: the abbreviation of its byte events. -/
  | frame (bytes : List Byte)
  deriving DecidableEq, Repr

/-- Why the machine stops with a fault. -/
inductive Fault where
  /-- An access to a buffer index that does not exist (R32, R67). Raised by `E_TXACK` when `TXI` is above 260 in
  `SEQ_SEND`, which no reachable state has (R67). Safe: the model stops where the spec gives no byte. -/
  | noSuchIndex (buf : Buffer) (index : Nat)
  deriving DecidableEq, Repr

/-- Why an instruction has no meaning. -/
inductive Refusal where
  /-- The instruction is not modelled. Raised by no arm of `exec`: every row of the opcode table has its meaning.
  Safe: the machine stops. -/
  | notModelled (mnemonic : String)
  deriving DecidableEq, Repr

/-- The state of the machine. -/
structure State where
  /-- `POLL_MS` and `RX_INTEGRITY_CHECK` (spec/00_scope.md R6), fixed at build time. -/
  cfg : Config
  /-- `OP` (R23). -/
  op : BitVec 4
  /-- `ADDR` (R23). -/
  addr : Byte
  /-- `SEC[0..7]` (R23). -/
  sec : SecAddr
  /-- `PLEN` (R23). -/
  plen : BitVec 16
  /-- `SEQ` (R24). -/
  seq : Seq
  /-- `TXLEN` (R25). -/
  txLen : BitVec 9
  /-- `TXI` (R25). -/
  txI : BitVec 9
  /-- The result registers (R26). -/
  res : Results
  /-- `FCB[0..255]`, latch `a` at bit `a` (R28). -/
  fcb : BitVec 256
  /-- `TIMEOUT` (R29). -/
  timeout : BitVec 32
  /-- `RXS` (R30). -/
  rxs : RxState
  /-- `RXN` (R30). -/
  rxn : BitVec 9
  /-- `RXEXP` (R30). -/
  rxexp : BitVec 9
  /-- `ELAPSED` (R30, R197). -/
  elapsed : BitVec 32
  /-- `LINK` (R31). -/
  link : Bool
  /-- `PAYLOAD` (R32, R51). -/
  payload : Memory
  /-- `TXBUF` (R32, R52). -/
  txbuf : Memory
  /-- `RXBUF` (R32, R53). -/
  rxbuf : Memory
  /-- The pulse `res_valid` (R21, R190): high in the step in which a command completes. -/
  resValid : Bool
  /-- The pulse `tick_sync` (R21, R121): high in the step in which the receiver is armed. -/
  tickSync : Bool
  /-- The transmit trace `TX`, oldest byte first (R11). -/
  tx : List Byte
  /-- The command words the host holds at the command port, the first with `cmd_valid` high (R174). -/
  cmdPort : List CommandWord
  /-- Bytes the transport holds and the engine has not accepted, oldest first (R34, R207). -/
  rxHeld : List Byte
  /-- The events still to come, next first: the environment, which the model quantifies over (R36). -/
  inbox : List Event
  /-- The answer of the last unit function invoked by itself (the model's own). -/
  unitOut : UnitOut
  /-- The number of the draw of free values; every step advances it (the model's own). -/
  draws : Nat
  deriving DecidableEq, Repr

/-- What an instruction or a step answers. -/
abbrev Answer := Host.Outcome State Fault Refusal

/-- The state after `E_RESET` with `link_open` at the level given (R35, R200), before any event. -/
def State.afterReset (cfg : Config) (linkOpen : Bool) : State where
  cfg := cfg
  op := 0#4
  addr := 0#8
  sec := 0#64
  plen := 0#16
  seq := .idle
  txLen := 0#9
  txI := 0#9
  res := {}
  fcb := BitVec.allOnes 256
  timeout := timeoutDefault
  rxs := .idle
  rxn := 0#9
  rxexp := 0#9
  elapsed := 0#32
  link := linkOpen
  payload := []
  txbuf := []
  rxbuf := []
  resValid := false
  tickSync := false
  tx := []
  cmdPort := []
  rxHeld := []
  inbox := []
  unitOut := .nothing
  draws := 0

/-- The machine right after reset, with the parameter values of R6 and `link_open = 1`, the start state of
spec/95_test_vectors.md (log entry 2). -/
def State.reset : State := State.afterReset Config.standard true

end Sys2Proof.Machine
end

