-- ==== Sys2Proof/Machine/Ops.lean ====
section
/-! DEFINITION. The shared operations: byte memories (spec/20_memory.md), the frame-count-bit array
(spec/41_fcb_registry.md), ending a command by an error or normally (spec/60_exceptions.md R190, spec/00_scope.md R9),
arming the receiver (R121), handing a frame to the transmit port (R142) and reset (R200). -/

namespace Sys2Proof.Machine

/-! ### Byte memories -/

/-- The value at an index, if something has written it. -/
def Memory.read? : Memory → Nat → Option Byte
  | [], _ => none
  | (a, b) :: m, i => if a = i then some b else Memory.read? m i

/-- Writing one byte; the canonical form is kept. -/
def Memory.write : Memory → Nat → Byte → Memory
  | [], i, v => [(i, v)]
  | (a, b) :: m, i, v =>
    if i < a then (i, v) :: (a, b) :: m
    else if i = a then (i, v) :: m
    else (a, b) :: Memory.write m i v

/-- `MemWrite(BUF + i, n, v)`: consecutive bytes, the first at index `i` (R9). -/
def Memory.writeBlock : Memory → Nat → List Byte → Memory
  | m, _, [] => m
  | m, i, b :: bs => Memory.writeBlock (Memory.write m i b) (i + 1) bs

/-- The canonical form: indices strictly rising. An unlisted index holds no value, so no entry can equal what an
unlisted index reads as. -/
def Memory.wf : Memory → Bool
  | [] => true
  | [_] => true
  | (a, _) :: (b, y) :: m => decide (a < b) && Memory.wf ((b, y) :: m)

/-- Every listed index is below `n`. -/
def Memory.below (n : Nat) : Memory → Bool
  | [] => true
  | (a, _) :: m => decide (a < n) && Memory.below n m

/-- Whether the bytes stand at consecutive indices from `i`. -/
def Memory.holds : Memory → Nat → List Byte → Bool
  | _, _, [] => true
  | m, i, b :: bs => Memory.read? m i == some b && Memory.holds m (i + 1) bs

/-- The size of a buffer (R32). -/
def bufferSize : Buffer → Nat
  | .payload => maxPayload
  | .txbuf => maxFrame
  | .rxbuf => maxFrame

/-- The contents of a buffer. -/
def State.buffer (s : State) : Buffer → Memory
  | .payload => s.payload
  | .txbuf => s.txbuf
  | .rxbuf => s.rxbuf

/-- `BUF[i]`: the byte something has written there, or else the free value of this draw (R35, U3, U7, U14). -/
def State.byteAt (s : State) (buf : Buffer) (i : Nat) : Byte :=
  ((s.buffer buf).read? i).getD (Config.unspecifiedByte s.draws buf i)

/-- `MemRead(BUF + i, n)` (R9). -/
def State.bytesAt (s : State) (buf : Buffer) (i n : Nat) : List Byte :=
  (List.range n).map (fun k => s.byteAt buf (i + k))

/-! ### The frame-count-bit array -/

/-- `FCB[a]` (R28, R110). -/
def fcbBit (s : State) (a : Byte) : Bool := s.fcb.getLsbD a.toNat

/-- `FCB[a] <- v`, no other latch written (R114). -/
def setFcb (a : Byte) (v : Bool) (s : State) : State :=
  { s with fcb := if v then s.fcb ||| (1#256 <<< a.toNat) else s.fcb &&& ~~~(1#256 <<< a.toNat) }

/-- The control byte `FCB_NEXT(a)` answers (R111, R78). -/
def fcbControl (a : Byte) (s : State) : Byte := if fcbBit s a then 0x7B#8 else 0x5B#8

/-- The latch inversion of `FCB_NEXT(a)` (R111). -/
def fcbFlip (a : Byte) (s : State) : State := setFcb a (!fcbBit s a) s

/-- `FCB_RESET(a)` (R112). -/
def fcbSetOne (a : Byte) (s : State) : State := setFcb a true s

/-- `FCB_INIT` (R113). -/
def fcbSetAll (s : State) : State := { s with fcb := BitVec.allOnes 256 }

/-! ### How a command ends -/

/-- `raise X`: taking an error (R190). Nothing is saved and there is no return (R194). -/
def raise (code : ResultCode) (s : State) : State :=
  { s with res := { s.res with code := code, flag := false }, seq := .idle, resValid := true }

/-- `complete(flag)`: the normal end of a command (R9, R176). -/
def complete (flag : Bool) (s : State) : State :=
  { s with res := { s.res with code := .ok, flag := flag }, seq := .idle, resValid := true }

/-! ### Sending and arming -/

/-- `RX_ARM` (R121). -/
def armReceiver (s : State) : State :=
  { s with rxn := 0#9, rxexp := 0#9, elapsed := 0#32, rxs := .awaitFirst, tickSync := true }

/-- The last three lines of R142: the frame stands in `TXBUF` and sending begins. -/
def loadFrame (frame : List Byte) (s : State) : State :=
  { s with
    txbuf := s.txbuf.writeBlock 0 frame
    txLen := BitVec.ofNat 9 frame.length
    txI := 0#9
    seq := .send }

/-- A command word the engine does not accept yet stays with the host, which holds `cmd_valid` (R174). -/
def holdCommand (w : CommandWord) (s : State) : State := { s with cmdPort := s.cmdPort ++ [w] }

/-- Bytes the receiver does not accept stay with the transport (R127, R207). -/
def holdBytes (bytes : List Byte) (s : State) : State := { s with rxHeld := s.rxHeld ++ bytes }

/-! ### Reset -/

/-- `E_RESET` (R200, R35): the whole engine takes its reset values and `LINK` the present level of `link_open`. What
is no engine state stays: the parameters, what the host and the transport hold, the events to come, the draw counter
(log entry 13). -/
def hardReset (linkOpen : Bool) (s : State) : State :=
  { State.afterReset s.cfg linkOpen with
    cmdPort := s.cmdPort, rxHeld := s.rxHeld, inbox := s.inbox, draws := s.draws }

end Sys2Proof.Machine
end

