-- ==== Sys2Proof/Machine/Flags.lean ====
section
/-! DEFINITION. The status bits and result registers of a received frame (spec/10_state.md R26, R27;
spec/42_response_receiver.md R130, R131; spec/43_field_mux_and_operations.md R154). -/

namespace Sys2Proof.Machine

/-- `RES_INTEG[0]`: `L >= 3` (R131). -/
def integLength (s : State) : Bool := decide (3 ≤ (s.byteAt .rxbuf 1).toNat)

/-- `RES_INTEG[1]`: the second length byte equals the first (R131). -/
def integRepeat (s : State) : Bool := s.byteAt .rxbuf 2 == s.byteAt .rxbuf 1

/-- `RES_INTEG[2]`: the second start byte is `68` (R131). -/
def integStart (s : State) : Bool := s.byteAt .rxbuf 3 == 0x68#8

/-- `RES_INTEG[3]`: the stop byte is `16` (R131). -/
def integStop (s : State) : Bool := s.byteAt .rxbuf ((s.byteAt .rxbuf 1).toNat + 5) == 0x16#8

/-- `RES_INTEG[4]`: the checksum over the `L` bytes from index 4 (R131). -/
def integSum (s : State) : Bool :=
  s.byteAt .rxbuf ((s.byteAt .rxbuf 1).toNat + 4) == sum8 (s.bytesAt .rxbuf 4 (s.byteAt .rxbuf 1).toNat)

/-- `RES_INTEG`, bit 4 on the left (R26, R130). -/
def integrity (s : State) : BitVec 5 :=
  BitVec.ofBool (integSum s) ++ BitVec.ofBool (integStop s) ++ BitVec.ofBool (integStart s) ++
    BitVec.ofBool (integRepeat s) ++ BitVec.ofBool (integLength s)

/-- Whether a complete long frame is an `RSP_UD` (R130, R84): it must be long enough, and with
`RX_INTEGRITY_CHECK = 1` pass the four other checks. -/
def acceptsLong (s : State) : Bool :=
  integLength s && (!s.cfg.rxIntegrityCheck || (integRepeat s && integStart s && integStop s && integSum s))

/-- The field registers of a long frame; with `L < 3` they keep what they hold (R26, R130). -/
def latchFields (s : State) (r : Results) : Results :=
  if integLength s then
    { r with
      cf := s.byteAt .rxbuf 4
      af := s.byteAt .rxbuf 5
      ci := s.byteAt .rxbuf 6
      plen := s.byteAt .rxbuf 1 - 3#8 }
  else r

/-- `RX_CLASSIFY` (R130). -/
def classify (s : State) : State :=
  if s.rxn = 1#9 then { s with res := { s.res with cls := .single } }
  else
    { s with
      res :=
        { latchFields s s.res with
          integ := integrity s
          cls := if acceptsLong s then .rspUd else .malformed } }

/-- `RES_AFMIS` after a poll that received an `RSP_UD` (R145, R154). -/
def noteAddressMismatch (s : State) : State :=
  { s with res := { s.res with afmis := decide (s.res.af ≠ s.addr) } }

end Sys2Proof.Machine
end

