-- ==== Sys2Proof/Machine/Operands.lean ====
section
/-! DEFINITION. The operand registers (spec/10_state.md R23), the field and payload multiplexers
(spec/43_field_mux_and_operations.md R140, R141) and the acceptance of a command (R142). -/

namespace Sys2Proof.Machine

/-- The first lines of R142: the result registers take their cleared values, the operand registers are loaded. -/
def loadOperands (op : BitVec 4) (addr : Byte) (sec : SecAddr) (plen : BitVec 16) (s : State) : State :=
  { s with res := {}, op := op, addr := addr, sec := sec, plen := plen }

/-- `SEC[0..7]` in wire order: `SEC[i] = cmd_sec[8i+7 : 8i]` (R57). -/
def secBytes (sec : SecAddr) : List Byte := (List.range 8).map (fun i => sec.extractLsb' (8 * i) 8)

/-- The number of payload bytes of a source (R141). -/
def sourceLength : PayloadSource → Nat
  | .hostPayload n => n.toNat
  | .secondary => 8

/-- The payload bytes of a source, in index order, unchanged (R141). -/
def sourceBytes (s : State) : PayloadSource → List Byte
  | .hostPayload n => s.bytesAt .payload 0 n.toNat
  | .secondary => secBytes s.sec

/-- The fields `MUX(op)` selects (R140, the table). -/
def muxFields (op : BusOp) (s : State) : FrameFields :=
  match op with
  | .poll => .short (fcbControl s.addr s) s.addr
  | .write => .long 0x73#8 s.addr 0x51#8 (.hostPayload s.plen)
  | .select => .long 0x53#8 0xFD#8 0x52#8 .secondary
  | .deselect => .long 0x53#8 0xFD#8 0x56#8 .secondary
  | .scan => .long 0x53#8 0xFD#8 0x52#8 .secondary
  | .selro => .long 0x53#8 s.addr 0x51#8 (.hostPayload s.plen)
  | .rstro => .long 0x53#8 s.addr 0x50#8 (.hostPayload s.plen)
  | .linkreset => .short 0x40#8 s.addr

/-- The side effect of `MUX(op)`: the POLL row calls `FCB_NEXT`, which inverts the latch (R140). -/
def muxState (op : BusOp) (s : State) : State :=
  match op with
  | .poll => fcbFlip s.addr s
  | .write => s
  | .select => s
  | .deselect => s
  | .scan => s
  | .selro => s
  | .rstro => s
  | .linkreset => s

/-- The frame of the selected fields; `none` is `PayloadTooLarge`. The length is tested before any byte of the source
is read (R102, R141). -/
def buildFrame (f : FrameFields) (s : State) : Option (List Byte) :=
  match f with
  | .short cf af => some (encShort af cf)
  | .long cf af ci src =>
    if sourceLength src ≤ maxPayload then encLong af cf ci (sourceBytes s src) else none

/-- A bus command after its operands are loaded (R142): the open check, then `MUX`, then the frame. -/
def startBus (op : BusOp) (s : State) : State :=
  if s.link then
    match buildFrame (muxFields op s) (muxState op s) with
    | some frame => loadFrame frame (muxState op s)
    | none => raise .payloadTooLarge (muxState op s)
  else raise .notOpen s

/-- `SETTIMEOUT` after its operands are loaded (spec/44_session_control.md R171). -/
def setTimeout (tmo : BitVec 32) (s : State) : State :=
  if tmo.msb || tmo == 0#32 then raise .invalidArgument s else complete true { s with timeout := tmo }

/-- Accepting a command word when `cmd_ready`, which is `SEQ = SEQ_IDLE` (R174): its operands are loaded and `run` does
the rest in the same step. Otherwise the host goes on holding the word. -/
def acceptCommand (op : BitVec 4) (addr : Byte) (sec : SecAddr) (plen : BitVec 16) (tmo : BitVec 32)
    (run : State → State) (s : State) : Answer :=
  if s.seq = .idle then .next (run (loadOperands op addr sec plen s))
  else .next (holdCommand (commandWord op addr sec plen tmo) s)

/-- The opcode of a bus operation (spec/30_encoding.md R80). -/
def opcodeOf : BusOp → BitVec 4
  | .poll => 0x1#4
  | .write => 0x2#4
  | .select => 0x3#4
  | .deselect => 0x4#4
  | .scan => 0x5#4
  | .selro => 0x6#4
  | .rstro => 0x7#4
  | .linkreset => 0x8#4

/-- The bus operation an opcode names, if it names one (R80). -/
def busOpOf (op : BitVec 4) : Option BusOp :=
  match op.toNat with
  | 1 => some .poll
  | 2 => some .write
  | 3 => some .select
  | 4 => some .deselect
  | 5 => some .scan
  | 6 => some .selro
  | 7 => some .rstro
  | 8 => some .linkreset
  | _ => none

end Sys2Proof.Machine
end

