-- ==== Sys2Proof/Machine/Sequencer.lean ====
section
/-! DEFINITION. The sequencer and the response receiver: sending (spec/43_field_mux_and_operations.md R143, R144),
accumulating (spec/42_response_receiver.md R122, R127), the timeout (R125) and finishing an operation (R145). -/

namespace Sys2Proof.Machine

/-- One of the three waiting states of the receiver (R125, R127). -/
def RxState.waiting : RxState → Bool
  | .awaitFirst => true
  | .awaitLen => true
  | .lenKnown => true
  | .idle => false
  | .complete => false
  | .timedOut => false
  | .incomplete => false

/-- The receiver waits: the condition under which a tick counts (R125). -/
def receiverWaits (s : State) : Bool := s.seq == .recv && s.rxs.waiting

/-- `rx_ready` (R127). -/
def rxReady (s : State) : Bool := receiverWaits s && decide (s.rxn.toNat < maxFrame)

/-- A send-level failure (R144): `SCAN` maps it to "a device responded". -/
def sendFailure (s : State) : State :=
  if s.op = opcodeOf .scan then complete true s else raise .ioError s

/-- The end of an operation whose frame is complete, by its class (R145). With no bus operation in `OP` there is
nothing to finish, which no reachable state has (log entry 12). -/
def finishComplete (s : State) : State :=
  match busOpOf s.op with
  | some .poll =>
    if s.res.cls = .rspUd then complete true (noteAddressMismatch s) else raise .unexpectedMessageType s
  | some .write => complete (s.res.cls == .single) s
  | some .scan => complete (s.res.cls == .single) s
  | some .select => if s.res.cls = .single then complete true s else raise .unexpectedMessageType s
  | some .deselect => if s.res.cls = .single then complete true s else raise .unexpectedMessageType s
  | some .selro => if s.res.cls = .single then complete true s else raise .unexpectedMessageType s
  | some .rstro => if s.res.cls = .single then complete true s else raise .unexpectedMessageType s
  | some .linkreset =>
    if s.res.cls = .single then complete true (fcbSetOne s.addr s) else raise .unexpectedMessageType s
  | none => s

/-- Finishing (R145), called when the receiver has reached a terminal state. -/
def finish (s : State) : State :=
  match s.rxs with
  | .timedOut => if s.op = opcodeOf .scan then complete false s else raise .timeout s
  | .incomplete => raise .incompleteMessage s
  | .complete => finishComplete s
  | .idle => s
  | .awaitFirst => s
  | .awaitLen => s
  | .lenKnown => s

/-- The length rule of `RX_BYTE(b)`, after `b` was stored (R122, R79): the first byte `E5` or the byte after a first
`68` makes the length known. -/
def learnLength (b : Byte) (s : State) : State :=
  match s.rxs with
  | .awaitFirst => if b = 0xE5#8 then { s with rxexp := 1#9, rxs := .lenKnown } else { s with rxs := .awaitLen }
  | .awaitLen =>
    if s.byteAt .rxbuf 0 = 0x68#8 then { s with rxexp := b.zeroExtend 9 + 6#9, rxs := .lenKnown } else s
  | .lenKnown => s
  | .idle => s
  | .complete => s
  | .timedOut => s
  | .incomplete => s

/-- `RXBUF[RXN] <- b; RXN <- RXN + 1` (R122). -/
def storeByte (b : Byte) (s : State) : State :=
  { s with rxbuf := s.rxbuf.write s.rxn.toNat b, rxn := s.rxn + 1#9 }

/-- The completion test of `RX_BYTE`: an equality, made after every byte (R122). -/
def checkComplete (s : State) : State :=
  if s.rxs = .lenKnown ∧ s.rxn = s.rxexp then finish (classify { s with rxs := .complete }) else s

/-- `RX_BYTE(b)` of an accepted byte (R122). -/
def takeByte (b : Byte) (s : State) : State := checkComplete (learnLength b (storeByte b s))

/-- `RX_TICK` (R125): it does nothing unless the receiver waits; `>=` decides (spec/90_conflicts.md C4). -/
def takeTick (s : State) : State :=
  if receiverWaits s then
    let t := { s with elapsed := s.elapsed + s.cfg.pollMs }
    if t.timeout ≤ t.elapsed then
      finish { t with rxs := if t.rxn = 0#9 then .timedOut else .incomplete }
    else t
  else s

/-- `E_TXACK` (R143): the offered byte leaves; after the last one the receiver is armed. Outside `SEQ_SEND` no byte is
offered and the event is dropped (R22, log entry 6). -/
def takeAck (s : State) : Answer :=
  if s.seq = .send then
    if s.txI.toNat < maxFrame then
      let t := { s with tx := s.tx ++ [s.byteAt .txbuf s.txI.toNat], txI := s.txI + 1#9 }
      .next (if t.txI = t.txLen then armReceiver { t with seq := .recv } else t)
    else .fault (.noSuchIndex .txbuf s.txI.toNat)
  else .next s

/-- The engine offers exactly this frame, none of it sent yet: `SEQ_SEND`, `TXI = 0` and the frame is
`TXBUF[0 .. TXLEN-1]`. -/
def offersFrame (bytes : List Byte) (s : State) : Bool :=
  s.seq == .send && s.txI == 0#9 && s.txLen.toNat == bytes.length && bytes != [] &&
    decide (bytes.length ≤ maxFrame) && s.txbuf.holds 0 bytes

/-- The transport takes the whole offered frame: all its `E_TXACK` events (R143). -/
def sendWhole (bytes : List Byte) (s : State) : State :=
  armReceiver { s with tx := s.tx ++ bytes, txI := s.txLen, seq := .recv }

/-- Bytes offered to the receiver one by one; from the first one it does not accept on they stay with the transport
(R122, R127, R207). -/
def feed : List Byte → State → State
  | [], s => s
  | b :: bs, s => if rxReady s then feed bs (takeByte b s) else holdBytes (b :: bs) s

/-- Bytes arrive behind those the transport holds already (R207). -/
def arrive (bytes : List Byte) (s : State) : State := feed (s.rxHeld ++ bytes) { s with rxHeld := [] }

/-- A frame crosses the line (R143, R122): outward if the engine offers exactly it; otherwise somebody else sends it,
and its bytes arrive, the engine's own echo among them (R155, log entry 7). -/
def transferFrame (bytes : List Byte) (s : State) : Answer :=
  .next (if offersFrame bytes s then sendWhole bytes s else arrive bytes s)

end Sys2Proof.Machine
end

