-- ==== Sys2Proof/Machine/Commands.lean ====
section
/-! DEFINITION. The nine host commands (spec/43_field_mux_and_operations.md R146 to R153, spec/44_session_control.md
R171): the step that accepts the command. Sending, receiving and finishing are the later steps (Sequencer.lean). -/

namespace Sys2Proof.Machine

/-- POLL (R146, R142). -/
def execPoll (addr : Byte) (sec : SecAddr) (plen : BitVec 16) (tmo : BitVec 32) (s : State) : Answer :=
  acceptCommand 0x1#4 addr sec plen tmo (startBus .poll) s

/-- WRITE (R147, R142). -/
def execWrite (addr : Byte) (sec : SecAddr) (plen : BitVec 16) (tmo : BitVec 32) (s : State) : Answer :=
  acceptCommand 0x2#4 addr sec plen tmo (startBus .write) s

/-- SELECT (R148, R142). -/
def execSelect (addr : Byte) (sec : SecAddr) (plen : BitVec 16) (tmo : BitVec 32) (s : State) : Answer :=
  acceptCommand 0x3#4 addr sec plen tmo (startBus .select) s

/-- DESELECT (R149, R142). -/
def execDeselect (addr : Byte) (sec : SecAddr) (plen : BitVec 16) (tmo : BitVec 32) (s : State) : Answer :=
  acceptCommand 0x4#4 addr sec plen tmo (startBus .deselect) s

/-- SCAN (R150, R142). -/
def execScan (addr : Byte) (sec : SecAddr) (plen : BitVec 16) (tmo : BitVec 32) (s : State) : Answer :=
  acceptCommand 0x5#4 addr sec plen tmo (startBus .scan) s

/-- SELRO (R151, R142). -/
def execSelro (addr : Byte) (sec : SecAddr) (plen : BitVec 16) (tmo : BitVec 32) (s : State) : Answer :=
  acceptCommand 0x6#4 addr sec plen tmo (startBus .selro) s

/-- RSTRO (R152, R142). -/
def execRstro (addr : Byte) (sec : SecAddr) (plen : BitVec 16) (tmo : BitVec 32) (s : State) : Answer :=
  acceptCommand 0x7#4 addr sec plen tmo (startBus .rstro) s

/-- LINKRESET (R153, R142). -/
def execLinkreset (addr : Byte) (sec : SecAddr) (plen : BitVec 16) (tmo : BitVec 32) (s : State) : Answer :=
  acceptCommand 0x8#4 addr sec plen tmo (startBus .linkreset) s

/-- SETTIMEOUT (R171, R142): it is a command, but no bus operation, and is not gated by `LINK`. -/
def execSettimeout (addr : Byte) (sec : SecAddr) (plen : BitVec 16) (tmo : BitVec 32) (s : State) : Answer :=
  acceptCommand 0x9#4 addr sec plen tmo (setTimeout tmo) s

end Sys2Proof.Machine
end

