-- ==== Sys2Proof/Machine/Reserved.lean ====
section
/-! DEFINITION. The seven reserved command opcodes (spec/30_encoding.md R82, spec/44_session_control.md R170): accepting
one ends at once with `InvalidArgument`. -/

namespace Sys2Proof.Machine

/-- Reserved opcode `0x0` (R82, R170). -/
def execReserved0 (addr : Byte) (sec : SecAddr) (plen : BitVec 16) (tmo : BitVec 32) (s : State) : Answer :=
  acceptCommand 0x0#4 addr sec plen tmo (raise .invalidArgument) s

/-- Reserved opcode `0xA` (R82, R170). -/
def execReservedA (addr : Byte) (sec : SecAddr) (plen : BitVec 16) (tmo : BitVec 32) (s : State) : Answer :=
  acceptCommand 0xA#4 addr sec plen tmo (raise .invalidArgument) s

/-- Reserved opcode `0xB` (R82, R170). -/
def execReservedB (addr : Byte) (sec : SecAddr) (plen : BitVec 16) (tmo : BitVec 32) (s : State) : Answer :=
  acceptCommand 0xB#4 addr sec plen tmo (raise .invalidArgument) s

/-- Reserved opcode `0xC` (R82, R170). -/
def execReservedC (addr : Byte) (sec : SecAddr) (plen : BitVec 16) (tmo : BitVec 32) (s : State) : Answer :=
  acceptCommand 0xC#4 addr sec plen tmo (raise .invalidArgument) s

/-- Reserved opcode `0xD` (R82, R170). -/
def execReservedD (addr : Byte) (sec : SecAddr) (plen : BitVec 16) (tmo : BitVec 32) (s : State) : Answer :=
  acceptCommand 0xD#4 addr sec plen tmo (raise .invalidArgument) s

/-- Reserved opcode `0xE` (R82, R170). -/
def execReservedE (addr : Byte) (sec : SecAddr) (plen : BitVec 16) (tmo : BitVec 32) (s : State) : Answer :=
  acceptCommand 0xE#4 addr sec plen tmo (raise .invalidArgument) s

/-- Reserved opcode `0xF` (R82, R170). -/
def execReservedF (addr : Byte) (sec : SecAddr) (plen : BitVec 16) (tmo : BitVec 32) (s : State) : Answer :=
  acceptCommand 0xF#4 addr sec plen tmo (raise .invalidArgument) s

end Sys2Proof.Machine
end

