-- ==== Sys2Proof/Machine/Units.lean ====
section
/-! DEFINITION. The twelve unit functions (spec/40_frame_codec.md to spec/43_field_mux_and_operations.md), invoked by
themselves. What a function answers appears at `unitOut` (log entry 8); what it writes is written. -/

namespace Sys2Proof.Machine

/-- A unit function's answer. -/
def answer (out : UnitOut) (s : State) : State := { s with unitOut := out }

/-- CHECKSUM (R100). -/
def execChecksum (bytes : List Byte) (s : State) : Answer := .next (answer (.bytes [sum8 bytes]) s)

/-- ENC_SINGLE (R103). -/
def execEncSingle (s : State) : Answer := .next (answer (.bytes encSingle) s)

/-- ENC_SHORT (R101): its operands are integers, each masked to one byte. -/
def execEncShort (address controlField : Int) (s : State) : Answer :=
  .next (answer (.bytes (encShort (maskByte address) (maskByte controlField))) s)

/-- ENC_LONG (R102): it answers the frame or fails with `PayloadTooLarge`; it is pure (R105). -/
def execEncLong (address controlField ci : Byte) (payload : List Byte) (s : State) : Answer :=
  match encLong address controlField ci payload with
  | some frame => .next (answer (.bytes frame) s)
  | none => .next (answer (.failed .payloadTooLarge) s)

/-- FCB_NEXT (R111): the control byte of the latch as it was, and the latch inverted. -/
def execFcbNext (a : Byte) (s : State) : Answer := .next (answer (.controlField (fcbControl a s)) (fcbFlip a s))

/-- FCB_RESET (R112). -/
def execFcbReset (a : Byte) (s : State) : Answer := .next (fcbSetOne a s)

/-- FCB_INIT (R113). -/
def execFcbInit (s : State) : Answer := .next (fcbSetAll s)

/-- RX_ARM (R121). -/
def execRxArm (s : State) : Answer := .next (armReceiver s)

/-- RX_BYTE (R122): enabled when `rx_ready`; a byte offered otherwise stays with the transport (R127). -/
def execRxByte (b : Byte) (s : State) : Answer :=
  .next (if rxReady s then takeByte b s else holdBytes [b] s)

/-- RX_TICK (R125). -/
def execRxTick (s : State) : Answer := .next (takeTick s)

/-- RX_CLASSIFY (R130), on `RXBUF` and `RXN` as they stand (log entry 11). -/
def execRxClassify (s : State) : Answer := .next (classify s)

/-- MUX (R140): combinational, except that its POLL row inverts `FCB[ADDR]`. -/
def execMux (op : BusOp) (s : State) : Answer := .next (answer (.fields (muxFields op s)) (muxState op s))

end Sys2Proof.Machine
end

