-- ==== Sys2Proof/Machine/Wire.lean ====
section
/-! DEFINITION. The wire rows of the opcode table: the three frame shapes (spec/30_encoding.md R70 to R72) and the
eight request frames (R76, R77). A frame means its bytes crossing the line (log entry 7). -/

namespace Sys2Proof.Machine

/-- SINGLE_CHARACTER (R70): it only arrives. -/
def execSingleCharacter (s : State) : Answer := transferFrame encSingle s

/-- SHORT_FRAME (R71). -/
def execShortFrame (cf af cs : Byte) (s : State) : Answer := transferFrame (shortBytes cf af cs) s

/-- LONG_FRAME (R72). -/
def execLongFrame (cf af ci : Byte) (p : List Byte) (cs : Byte) (s : State) : Answer :=
  transferFrame (longBytes cf af ci p cs) s

/-- REQ_UD2 with FCB=1 (R76, R146). -/
def execReqUd2Fcb1 (af cs : Byte) (s : State) : Answer := transferFrame (shortBytes 0x7B#8 af cs) s

/-- REQ_UD2 with FCB=0 (R76, R146). -/
def execReqUd2Fcb0 (af cs : Byte) (s : State) : Answer := transferFrame (shortBytes 0x5B#8 af cs) s

/-- SND_NKE (R76, R153). -/
def execSndNke (af cs : Byte) (s : State) : Answer := transferFrame (shortBytes 0x40#8 af cs) s

/-- SND_UD, write (R76, R77, R147). -/
def execSndUdWrite (af : Byte) (p : List Byte) (cs : Byte) (s : State) : Answer :=
  transferFrame (longBytes 0x73#8 af 0x51#8 p cs) s

/-- SND_UD, select secondary address; the frame of SELECT and of SCAN (R77, R148, R150). -/
def execSndUdSelect (p : List Byte) (cs : Byte) (s : State) : Answer :=
  transferFrame (longBytes 0x53#8 0xFD#8 0x52#8 p cs) s

/-- SND_UD, deselect secondary address (R77, R149). -/
def execSndUdDeselect (p : List Byte) (cs : Byte) (s : State) : Answer :=
  transferFrame (longBytes 0x53#8 0xFD#8 0x56#8 p cs) s

/-- SND_UD, readout selection (R77, R151). -/
def execSndUdReadoutSelection (af : Byte) (p : List Byte) (cs : Byte) (s : State) : Answer :=
  transferFrame (longBytes 0x53#8 af 0x51#8 p cs) s

/-- SND_UD, readout reset (R77, R152). -/
def execSndUdReadoutReset (af : Byte) (p : List Byte) (cs : Byte) (s : State) : Answer :=
  transferFrame (longBytes 0x53#8 af 0x50#8 p cs) s

end Sys2Proof.Machine
end

