-- ==== Sys2Proof/Machine/Dispatch.lean ====
section
/-! DEFINITION. The dispatch: one arm per row of spec/opcode_table.json. -/

namespace Sys2Proof.Machine

def exec (i : Instr) (s : State) : Host.Outcome State Fault Refusal :=
  match i with
  | .singleCharacter => Sys2Proof.Machine.execSingleCharacter s
  | .shortFrame cf af cs => Sys2Proof.Machine.execShortFrame cf af cs s
  | .longFrame cf af ci payload cs => Sys2Proof.Machine.execLongFrame cf af ci payload cs s
  | .reqUd2Fcb1 af cs => Sys2Proof.Machine.execReqUd2Fcb1 af cs s
  | .reqUd2Fcb0 af cs => Sys2Proof.Machine.execReqUd2Fcb0 af cs s
  | .sndNke af cs => Sys2Proof.Machine.execSndNke af cs s
  | .sndUdWrite af payload cs => Sys2Proof.Machine.execSndUdWrite af payload cs s
  | .sndUdSelect payload cs => Sys2Proof.Machine.execSndUdSelect payload cs s
  | .sndUdDeselect payload cs => Sys2Proof.Machine.execSndUdDeselect payload cs s
  | .sndUdReadoutSelection af payload cs => Sys2Proof.Machine.execSndUdReadoutSelection af payload cs s
  | .sndUdReadoutReset af payload cs => Sys2Proof.Machine.execSndUdReadoutReset af payload cs s
  | .poll addr sec plen tmo => Sys2Proof.Machine.execPoll addr sec plen tmo s
  | .write addr sec plen tmo => Sys2Proof.Machine.execWrite addr sec plen tmo s
  | .select addr sec plen tmo => Sys2Proof.Machine.execSelect addr sec plen tmo s
  | .deselect addr sec plen tmo => Sys2Proof.Machine.execDeselect addr sec plen tmo s
  | .scan addr sec plen tmo => Sys2Proof.Machine.execScan addr sec plen tmo s
  | .selro addr sec plen tmo => Sys2Proof.Machine.execSelro addr sec plen tmo s
  | .rstro addr sec plen tmo => Sys2Proof.Machine.execRstro addr sec plen tmo s
  | .linkreset addr sec plen tmo => Sys2Proof.Machine.execLinkreset addr sec plen tmo s
  | .settimeout addr sec plen tmo => Sys2Proof.Machine.execSettimeout addr sec plen tmo s
  | .reserved0 addr sec plen tmo => Sys2Proof.Machine.execReserved0 addr sec plen tmo s
  | .reservedA addr sec plen tmo => Sys2Proof.Machine.execReservedA addr sec plen tmo s
  | .reservedB addr sec plen tmo => Sys2Proof.Machine.execReservedB addr sec plen tmo s
  | .reservedC addr sec plen tmo => Sys2Proof.Machine.execReservedC addr sec plen tmo s
  | .reservedD addr sec plen tmo => Sys2Proof.Machine.execReservedD addr sec plen tmo s
  | .reservedE addr sec plen tmo => Sys2Proof.Machine.execReservedE addr sec plen tmo s
  | .reservedF addr sec plen tmo => Sys2Proof.Machine.execReservedF addr sec plen tmo s
  | .checksum bytes => Sys2Proof.Machine.execChecksum bytes s
  | .encSingle => Sys2Proof.Machine.execEncSingle s
  | .encShort address controlField => Sys2Proof.Machine.execEncShort address controlField s
  | .encLong address controlField ci payload => Sys2Proof.Machine.execEncLong address controlField ci payload s
  | .fcbNext a => Sys2Proof.Machine.execFcbNext a s
  | .fcbReset a => Sys2Proof.Machine.execFcbReset a s
  | .fcbInit => Sys2Proof.Machine.execFcbInit s
  | .rxArm => Sys2Proof.Machine.execRxArm s
  | .rxByte b => Sys2Proof.Machine.execRxByte b s
  | .rxTick => Sys2Proof.Machine.execRxTick s
  | .rxClassify => Sys2Proof.Machine.execRxClassify s
  | .mux op => Sys2Proof.Machine.execMux op s

end Sys2Proof.Machine
end

