-- ==== Sys2Proof/Machine/Events.lean ====
section
/-! DEFINITION. The events that are no row of the opcode table: `E_RESET` (spec/70_reset_and_hazards.md R200), `E_LINK`
(spec/44_session_control.md R173), `E_PAYWR` (spec/20_memory.md R51), `E_TXACK` and `E_TXERR`
(spec/43_field_mux_and_operations.md R143, R144). -/

namespace Sys2Proof.Machine

/-- `E_RESET` (R200). -/
def onReset (linkOpen : Bool) (s : State) : Answer := .next (hardReset linkOpen s)

/-- What the closing of the link does to a command in progress (R156). -/
def linkLost (s : State) : State :=
  match s.seq with
  | .idle => s
  | .send => sendFailure s
  | .recv => raise .ioError s

/-- `E_LINK(b)` (R173, R156). -/
def onLink (level : Bool) (s : State) : Answer :=
  .next
    (if level = s.link then s
     else if level then fcbSetAll { s with link := true }
     else linkLost { s with link := false })

/-- `E_PAYWR(i, v)` (R51): an index above 249 is dropped. -/
def onPayloadWrite (index : BitVec 8) (value : Byte) (s : State) : Answer :=
  .next (if index.toNat < maxPayload then { s with payload := s.payload.write index.toNat value } else s)

/-- `E_TXACK` (R143). -/
def onAck (s : State) : Answer := takeAck s

/-- `E_TXERR` (R144): ignored outside `SEQ_SEND`. -/
def onSendError (s : State) : Answer := .next (if s.seq = .send then sendFailure s else s)

end Sys2Proof.Machine
end

