-- ==== Sys2Proof/Machine/Ports.lean ====
section
/-! DEFINITION. The ports of the clocked shell (spec/10_state.md R21) as functions of the state, and the order in which
the events of one clock cycle are taken (R22). -/

namespace Sys2Proof.Machine

/-- `cmd_ready` (R174). -/
def cmdReady (s : State) : Bool := s.seq == .idle

/-- `tx_valid` (R143). -/
def txValid (s : State) : Bool := s.seq == .send

/-- `tx_data`, meaningful while `tx_valid` (R21). -/
def txData (s : State) : Byte := s.byteAt .txbuf s.txI.toNat

/-- `tx_last` (R21). -/
def txLast (s : State) : Bool := s.txI.toNat + 1 == s.txLen.toNat

/-- `rxb_data` at `rxb_idx` (R21): `RXBUF[rxb_idx]`. A byte at or above `RXN` is of an earlier receive or the free
value, and an index above 260 reads as the free value (U6, U7). -/
def rxbData (s : State) (rxbIdx : BitVec 9) : Byte :=
  if rxbIdx.toNat < maxFrame then s.byteAt .rxbuf rxbIdx.toNat
  else Config.unspecifiedByte s.draws .rxbuf rxbIdx.toNat

/-- The payload handed to the external decoder after a poll (R132, R176). -/
def deliveredPayload (s : State) : List Byte := s.bytesAt .rxbuf 7 s.res.plen.toNat

/-- The encoding of `SEQ` (R24). -/
def Seq.code : Seq → BitVec 2
  | .idle => 0#2
  | .send => 1#2
  | .recv => 2#2

/-- The encoding of `RXS` (R30). -/
def RxState.code : RxState → BitVec 3
  | .idle => 0#3
  | .awaitFirst => 1#3
  | .awaitLen => 2#3
  | .lenKnown => 3#3
  | .complete => 4#3
  | .timedOut => 5#3
  | .incomplete => 6#3

/-- `res_code`: the encoding of `RES_CODE` (R180). -/
def ResultCode.code : ResultCode → BitVec 4
  | .ok => 0#4
  | .notOpen => 1#4
  | .invalidArgument => 2#4
  | .payloadTooLarge => 3#4
  | .ioError => 4#4
  | .timeout => 5#4
  | .incompleteMessage => 6#4
  | .unexpectedMessageType => 7#4
  | .decodingError => 8#4
  | .connectionError => 9#4

/-- `res_class`: the encoding of `RES_CLASS` (R26). -/
def FrameClass.code : FrameClass → BitVec 3
  | .none => 0#3
  | .single => 1#3
  | .short => 2#3
  | .rspUd => 3#3
  | .malformed => 4#3

/-- The inputs of one clock cycle (R21): the levels and strobes, a byte the transport newly has, a command word the host
newly has. `rx_valid` and `cmd_valid` are high while the transport or the host holds anything. -/
structure CycleInputs where
  /-- `rst`. -/
  rst : Bool
  /-- `link_open`. -/
  linkOpen : Bool
  /-- `tx_err`. -/
  txErr : Bool
  /-- `tx_ready`. -/
  txReady : Bool
  /-- A byte newly available at the transport. -/
  rx : Option Byte
  /-- `tick`. -/
  tick : Bool
  /-- `pay_we` with `pay_idx`, `pay_data`. -/
  pay : Option (BitVec 8 × Byte)
  /-- A command word the host newly has. -/
  cmd : Option CommandWord
  deriving DecidableEq, Repr

/-- What is new at the transport and at the host in a clock cycle waits there, behind what they hold (R174, R207). -/
def cycleArrivals (p : CycleInputs) (s : State) : State :=
  { s with rxHeld := s.rxHeld ++ p.rx.toList, cmdPort := s.cmdPort ++ p.cmd.toList }

/-- The events of one clock cycle that begins in `s`, in the fixed order of R22. Which handshakes occur is told by the
levels of the cycle (R21): `tx_valid`, `rx_ready` and `cmd_ready` as they are when it begins. With `rst` high nothing
else of the cycle counts. -/
def cycleEvents (s : State) (p : CycleInputs) : List Event :=
  if p.rst then [.reset p.linkOpen]
  else
    (if p.linkOpen = s.link then [] else [Event.link p.linkOpen]) ++
    (if p.txErr && txValid s then [Event.txerr] else []) ++
    (if p.txReady && txValid s then [Event.txack] else []) ++
    (if rxReady s then [Event.offerByte] else []) ++
    (if p.tick then [Event.tick] else []) ++
    (match p.pay with | some (i, v) => [Event.paywr i v] | none => []) ++
    (if cmdReady s then [Event.offerCommand] else [])

/-- The engine with a clock cycle to come: the events of the cycle are what its next steps take (log entry 20). The
cycle begins when the events of the cycles before it have all been taken. -/
def offerCycle (p : CycleInputs) (s : State) : State :=
  { cycleArrivals p s with inbox := s.inbox ++ cycleEvents s p }

end Sys2Proof.Machine
end

