-- ==== Sys2Proof/Machine/Fetch.lean ====
section
/-! DEFINITION. What a step takes next (spec/00_scope.md R10, spec/10_state.md R22) and how an opcode-table word is
placed there. The engine fetches no instructions (R24): commands come from the command port, bytes and frames from the
line. -/

namespace Sys2Proof.Machine

/-- What every step begins with: the one-cycle pulses fall (R21, R176) and the free values are drawn anew (log
entry 5). -/
def beginStep (s : State) : State := { s with resValid := false, tickSync := false, draws := s.draws + 1 }

/-- A whole frame on the line: the meaning of its row; bytes that are no frame cross just the same (R20, R83). -/
def onFrame (bytes : List Byte) (s : State) : Answer :=
  match decodeWire bytes with
  | .ok i => exec i s
  | .error _ => transferFrame bytes s

/-- `E_RXBYTE` (R127): the byte the transport has held longest, if there is one and `rx_ready`. -/
def takeHeldByte (s : State) : Answer :=
  if rxReady s then
    match s.rxHeld with
    | [] => .next s
    | b :: bs => exec (.rxByte b) { s with rxHeld := bs }
  else .next s

/-- `E_CMD` (R174): the command word the host has held longest, if there is one and `cmd_ready`. -/
def takeHeldCommand (s : State) : Answer :=
  if cmdReady s then
    match s.cmdPort with
    | [] => .next s
    | w :: ws => exec (decodeCommand w) { s with cmdPort := ws }
  else .next s

/-- One event (R10). A new byte stands behind those the transport holds (R207), a new command word behind those the host
holds (R174). -/
def onEvent (e : Event) (s : State) : Answer :=
  match e with
  | .reset linkOpen => onReset linkOpen s
  | .link level => onLink level s
  | .paywr i v => onPayloadWrite i v s
  | .cmd w => takeHeldCommand (holdCommand w s)
  | .offerCommand => takeHeldCommand s
  | .txack => onAck s
  | .txerr => onSendError s
  | .rxbyte b => takeHeldByte (holdBytes [b] s)
  | .offerByte => takeHeldByte s
  | .tick => exec .rxTick s
  | .frame bytes => onFrame bytes s

/-- The event a step takes: the next one of the environment, in the environment's order. When none is to come, what the
transport or the host still holds is offered (R34, R174, R207); with nothing held that does nothing, and the engine
waits where it is (R208, log entry 1). `rx_ready` and `cmd_ready` are never high together. -/
def nextEvent (s : State) : Event :=
  match s.inbox with
  | e :: _ => e
  | [] => if rxReady s then .offerByte else .offerCommand

/-- Taking that event. -/
def takeNext (s : State) : Answer := onEvent (nextEvent s) { s with inbox := s.inbox.tail }

/-- The state with an encoded instruction as what the next step takes: a command word offered first, with the engine
ready to accept it, or a frame as the next event. -/
def placeCode (c : Code) (s : State) : State :=
  match c with
  | .command w => { s with seq := .idle, cmdPort := w :: s.cmdPort, inbox := .offerCommand :: s.inbox }
  | .wire bytes => { s with inbox := .frame bytes :: s.inbox }

end Sys2Proof.Machine
end

