-- ==== Sys2Proof/Machine/Step.lean ====
section
/-! DEFINITION. One step of the machine, and the placing of an opcode-table word where the next step takes it. -/

namespace Sys2Proof.Machine

/-- One step: one event, atomically (spec/00_scope.md R10). -/
def step (s : State) : Host.Outcome State Fault Refusal := takeNext (beginStep s)

/-- `s` with the instruction of an opcode-table word as what the next step runs. -/
def State.withFetchWord (s : State) (nbits w : Nat) : State := placeCode (tableCode nbits w) s

end Sys2Proof.Machine
end

