-- ==== Sys2Proof/Safety.lean ====
section
/-! DEFINITION. The terms the statements use: runs of events and of instructions, what a step takes, a safe run, and the
invariant of the engine (spec/10_state.md R24 to R30, spec/20_memory.md R51 to R53, R67, spec/42_response_receiver.md
R120, R123). -/

namespace Sys2Proof.Machine

/-- Events taken one after the other (spec/00_scope.md R10), stopping at a fault or a refusal. -/
def runEvents : List Event → State → Answer
  | [], s => .next s
  | e :: es, s =>
    match onEvent e s with
    | .next t => runEvents es t
    | .fault r => .fault r
    | .refused r => .refused r

/-- Instructions executed one after the other, stopping at a fault or a refusal. -/
def runInstrs : List Instr → State → Answer
  | [], s => .next s
  | i :: is, s =>
    match exec i s with
    | .next t => runInstrs is t
    | .fault r => .fault r
    | .refused r => .refused r

/-- The command word the next step accepts: with `cmd_ready`, the first one the host holds when it is offered (R174). -/
def acceptedWord (s : State) : Option CommandWord :=
  if cmdReady s then
    match nextEvent s with
    | .cmd w => (s.cmdPort ++ [w]).head?
    | .offerCommand => s.cmdPort.head?
    | _ => none
  else none

/-- A clock cycle that begins in `s` (R21, R22): what is new is held outside, and the events of the cycle are taken in
their order. -/
def runCycle (p : CycleInputs) (s : State) : Answer := runEvents (cycleEvents s p) (cycleArrivals p s)

/-- A run of any length is safe: no step of it ends in a fault or a refusal. -/
def SafeRun (s : State) : Prop := ∀ n, ∃ t, Sys2Proof.core.run n s = .next t

/-- The expected frame length as a function of the accumulated bytes (R123). -/
def expectedLength (s : State) : Option Nat :=
  if 1 ≤ s.rxn.toNat ∧ s.rxbuf.read? 0 = some 0xE5#8 then some 1
  else if 2 ≤ s.rxn.toNat ∧ s.rxbuf.read? 0 = some 0x68#8 then (s.rxbuf.read? 1).map (fun b => b.toNat + 6)
  else none

/-- The three byte memories are in canonical form and hold no index that does not exist; `TXBUF[259]` and `TXBUF[260]`
are never written (R32, R52). -/
structure BuffersInv (s : State) : Prop where
  payloadWf : s.payload.wf = true
  payloadBelow : s.payload.below maxPayload = true
  txbufWf : s.txbuf.wf = true
  txbufBelow : s.txbuf.below 259 = true
  rxbufWf : s.rxbuf.wf = true
  rxbufBelow : s.rxbuf.below maxFrame = true

/-- The first `TXI` bytes of `TXBUF` are the last bytes emitted (R143). -/
def Emitted (s : State) : Prop :=
  ∃ before sent : List Byte, s.tx = before ++ sent ∧ sent.length = s.txI.toNat ∧
    ∀ i, i < s.txI.toNat → s.txbuf.read? i = sent[i]?

/-- While sending, the link is open, a bus operation is in progress and a whole frame of 5 to 259 bytes stands in
`TXBUF`, not all of it sent; what was sent is on the line (R24, R25, R67). -/
structure SendInv (s : State) : Prop where
  linkOpen : s.link = true
  busOp : (busOpOf s.op).isSome = true
  index : s.txI.toNat < s.txLen.toNat
  shortest : 5 ≤ s.txLen.toNat
  longest : s.txLen.toNat ≤ 259
  written : ∀ i, i < s.txLen.toNat → (s.txbuf.read? i).isSome = true
  emitted : Emitted s

/-- While receiving, the link is open, a bus operation is in progress, the receiver waits, the timeout is not yet
reached, and the whole request is on the line (R24, R125, R155). -/
structure RecvInv (s : State) : Prop where
  linkOpen : s.link = true
  busOp : (busOpOf s.op).isSome = true
  waits : s.rxs.waiting = true
  notExpired : s.elapsed.toNat < s.timeout.toNat
  requestSent : s.txI = s.txLen
  emitted : Emitted s

/-- What each receiver state says of the accumulated bytes (R120, R123, R126). -/
def ReceiverStateInv (s : State) : Prop :=
  match s.rxs with
  | .idle => s.rxn.toNat = 0
  | .awaitFirst => s.rxn.toNat = 0
  | .awaitLen => 1 ≤ s.rxn.toNat ∧ expectedLength s = none
  | .lenKnown => expectedLength s = some s.rxexp.toNat ∧ s.rxn.toNat < s.rxexp.toNat
  | .complete => expectedLength s = some s.rxexp.toNat ∧ s.rxn.toNat = s.rxexp.toNat
  | .timedOut => s.rxn.toNat = 0
  | .incomplete => 0 < s.rxn.toNat

/-- The result registers hold only values the engine produces, and `RES_FLAG` is 0 whenever `RES_CODE` is not `OK`
(R26, R180, R130). -/
structure ResultsInv (r : Results) : Prop where
  noDecodingError : r.code ≠ .decodingError
  noConnectionError : r.code ≠ .connectionError
  noShortClass : r.cls ≠ .short
  flagMeansOk : r.flag = true → r.code = .ok

/-- The invariant of the engine: it holds after reset and every step keeps it. -/
structure EngineInv (s : State) : Prop where
  buffers : BuffersInv s
  sending : s.seq = .send → SendInv s
  receiving : s.seq = .recv → RecvInv s
  timeoutPositive : 1 ≤ s.timeout.toNat
  timeoutBound : s.timeout.toNat < 2 ^ 31
  receivedCount : s.rxn.toNat ≤ maxFrame
  receivedWritten : ∀ i, i < s.rxn.toNat → (s.rxbuf.read? i).isSome = true
  receiver : ReceiverStateInv s
  results : ResultsInv s.res

/-- The byte `b` would complete the frame being received: the single character, or the last byte of a frame of known
length (R122). -/
def completesFrame (b : Byte) (s : State) : Prop :=
  (s.rxs = .awaitFirst ∧ s.rxn = 0#9 ∧ b = 0xE5#8) ∨ (s.rxs = .lenKnown ∧ s.rxn + 1#9 = s.rxexp)

/-- The receiver was just armed for the operation in progress, and the transport holds no byte (R121). -/
structure JustArmed (s : State) : Prop where
  seq : s.seq = .recv
  rxs : s.rxs = .awaitFirst
  rxn : s.rxn = 0#9
  held : s.rxHeld = []

/-! ### Terms for the instructions -/

/-- The command of a bus operation, with the operands of the command word (spec/30_encoding.md R80, R81). -/
def busInstr (op : BusOp) (addr : Byte) (sec : SecAddr) (plen : BitVec 16) (tmo : BitVec 32) : Instr :=
  match op with
  | .poll => .poll addr sec plen tmo
  | .write => .write addr sec plen tmo
  | .select => .select addr sec plen tmo
  | .deselect => .deselect addr sec plen tmo
  | .scan => .scan addr sec plen tmo
  | .selro => .selro addr sec plen tmo
  | .rstro => .rstro addr sec plen tmo
  | .linkreset => .linkreset addr sec plen tmo

/-- The seven reserved opcodes with their rows (R82). -/
def reservedRows (addr : Byte) (sec : SecAddr) (plen : BitVec 16) (tmo : BitVec 32) : List (BitVec 4 × Instr) :=
  [(0x0#4, .reserved0 addr sec plen tmo), (0xA#4, .reservedA addr sec plen tmo), (0xB#4, .reservedB addr sec plen tmo),
    (0xC#4, .reservedC addr sec plen tmo), (0xD#4, .reservedD addr sec plen tmo),
    (0xE#4, .reservedE addr sec plen tmo), (0xF#4, .reservedF addr sec plen tmo)]

/-- The sum of bytes as an integer. -/
def byteSum (bytes : List Byte) : Nat := (bytes.map BitVec.toNat).sum

/-- The long frame as R72 writes it: `L = 3 + n`, and the checksum the integer sum of `CF`, `AF`, `CI` and the payload
modulo 256. -/
def specLongFrame (cf af ci : Byte) (payload : List Byte) : List Byte :=
  [0x68#8, BitVec.ofNat 8 (3 + payload.length), BitVec.ofNat 8 (3 + payload.length), 0x68#8, cf, af, ci] ++ payload ++
    [BitVec.ofNat 8 ((cf.toNat + af.toNat + ci.toNat + byteSum payload) % 256), 0x16#8]

/-- The short frame as R71 writes it: the checksum is `CF + AF` modulo 256. -/
def specShortFrame (cf af : Byte) : List Byte :=
  [0x10#8, cf, af, BitVec.ofNat 8 ((cf.toNat + af.toNat) % 256), 0x16#8]

/-- `t` is `s` after a bus command was accepted and its frame built (R142): the operands are latched, the results
cleared, the frame stands in `TXBUF` from index 0, sending begins; every other byte of `TXBUF` and, but for the frame
count bits, every other piece of state is as before. -/
def FrameBuilt (op : BitVec 4) (addr : Byte) (sec : SecAddr) (plen : BitVec 16) (frame : List Byte)
    (s t : State) : Prop :=
  t = { s with
    op := op, addr := addr, sec := sec, plen := plen, res := {}, seq := .send, txI := 0#9,
    txLen := BitVec.ofNat 9 frame.length, txbuf := t.txbuf, fcb := t.fcb } ∧
  ∀ i, t.txbuf.read? i = if i < frame.length then frame[i]? else s.txbuf.read? i

/-- `t` is `s` after a command ended in the accepting step (R142, R170, R190): the operands are latched, the result
registers hold the code and the flag and otherwise their cleared values, and nothing else changed. -/
def EndedAtAcceptance (op : BitVec 4) (addr : Byte) (sec : SecAddr) (plen : BitVec 16) (code : ResultCode)
    (flag : Bool) (s t : State) : Prop :=
  t = { s with
    op := op, addr := addr, sec := sec, plen := plen, res := { code := code, flag := flag }, seq := .idle,
    resValid := true }

/-- `RES_CODE` and `RES_FLAG` at the end of an operation whose frame is complete, by the class of the frame (R145,
R157). -/
def outcomeOf (op : BusOp) (cls : FrameClass) : ResultCode × Bool :=
  match op with
  | .poll => if cls = .rspUd then (.ok, true) else (.unexpectedMessageType, false)
  | .write | .scan => (.ok, decide (cls = .single))
  | .select | .deselect | .selro | .rstro | .linkreset =>
    if cls = .single then (.ok, true) else (.unexpectedMessageType, false)

end Sys2Proof.Machine
end

