-- ==== Sys2Proof/Certificates/Slice0/Obligations.lean ====
section
/-! DEFINITION. The statements for the provers, one definition each. -/

open Sys2Proof Sys2Proof.Machine

/-- For every well-formed instruction that has an encoding (the 11 wire rows, the 9 commands and the 7 reserved
opcodes), with every operand at every value the encoding admits, the decoder reads from its encoding exactly that
instruction. (30_encoding.md, 1. Wire frame formats, 30_encoding.md, 6. The command encoding) -/
def Obligations.DecodeOfEncodeIsIdentity : Prop :=
  ∀ (i : Instr) (c : Code), WellFormed i = true → encode i = some c → decode c = .ok i

/-- Whenever the decoder reads an instruction from a command word or from a byte sequence on the line, encoding that
instruction gives the same word or the same bytes: no bit of an accepted encoding is dropped and no byte sequence
is read as a frame of another shape. (30_encoding.md, 1. Wire frame formats, 30_encoding.md, 6. The command
encoding) -/
def Obligations.EncodeOfDecodeIsIdentity : Prop :=
  ∀ (c : Code) (i : Instr), decode c = .ok i → encode i = some c

/-- The command word built from an opcode and four operands decodes to the bus operation the opcode names (0x1 to
0x8), to SETTIMEOUT (0x9) or to the reserved row of that opcode (0x0, 0xA to 0xF), with the four operands
unchanged. (30_encoding.md, 6. The command encoding, 30_encoding.md, 5. Reserved and illegal encodings,
44_session_control.md, the table of command decode) -/
def Obligations.EveryOpcodeNamesItsCommand : Prop :=
  ∀ (a : Byte) (sc : SecAddr) (n : BitVec 16) (tm : BitVec 32),
    (∀ op : BusOp, decodeCommand (commandWord (opcodeOf op) a sc n tm) = busInstr op a sc n tm) ∧
    decodeCommand (commandWord 0x9#4 a sc n tm) = .settimeout a sc n tm ∧
    ∀ r ∈ reservedRows a sc n tm, decodeCommand (commandWord r.1 a sc n tm) = r.2

/-- Six words of the spec's vectors decode to their instructions: E5, 10 7B 11 8C 16, the SELECT and DESELECT frames
of 01 to 08, the command words of POLL 17 and of SETTIMEOUT 1000. (95_test_vectors.md, 2.1 Frame codec and
checksum, 95_test_vectors.md, 2.5 Operations, 95_test_vectors.md, 2.6 Session control) -/
def Obligations.WordsOfTheSpecDecode : Prop :=
  decodeWire [0xE5#8] = .ok .singleCharacter ∧
  decodeWire [0x10#8, 0x7B#8, 0x11#8, 0x8C#8, 0x16#8] = .ok (.reqUd2Fcb1 0x11#8 0x8C#8) ∧
  decodeWire [0x68#8, 0x0B#8, 0x0B#8, 0x68#8, 0x53#8, 0xFD#8, 0x52#8, 1#8, 2#8, 3#8, 4#8, 5#8, 6#8, 7#8, 8#8, 0xC6#8,
      0x16#8] = .ok (.sndUdSelect [1#8, 2#8, 3#8, 4#8, 5#8, 6#8, 7#8, 8#8] 0xC6#8) ∧
  decodeWire [0x68#8, 0x0B#8, 0x0B#8, 0x68#8, 0x53#8, 0xFD#8, 0x56#8, 1#8, 2#8, 3#8, 4#8, 5#8, 6#8, 7#8, 8#8, 0xCA#8,
      0x16#8] = .ok (.sndUdDeselect [1#8, 2#8, 3#8, 4#8, 5#8, 6#8, 7#8, 8#8] 0xCA#8) ∧
  decodeCommand 0x1110000000000000000000000000000#124 = .poll 0x11#8 0#64 0#16 0#32 ∧
  decodeCommand 0x90000000000000000000000000003E8#124 = .settimeout 0#8 0#64 0#16 1000#32

/-- In SEQ_IDLE with a command word held by the host, the step is exec of the instruction the first word decodes to,
on the state with that word taken from the port, the two pulses low and the draw counter advanced by one, when
nothing is to come, when the next event is the offering of what is held, or when it is one word more, which then
stands behind those held. The form in which events and held words stand in the state is the model's choice, log
entry 1. (44_session_control.md, the rule on one command at a time, 00_scope.md, the event alphabet) -/
def Obligations.StepRunsTheOfferedCommand : Prop :=
  ∀ (s : State) (w : CommandWord) (ws : List CommandWord), s.seq = .idle → s.cmdPort = w :: ws →
    (s.inbox = [] →
      step s =
        exec (decodeCommand w)
          { s with cmdPort := ws, resValid := false, tickSync := false, draws := s.draws + 1 }) ∧
    (∀ es, s.inbox = .offerCommand :: es →
      step s =
        exec (decodeCommand w)
          { s with cmdPort := ws, inbox := es, resValid := false, tickSync := false, draws := s.draws + 1 }) ∧
    ∀ v es, s.inbox = .cmd v :: es →
      step s =
        exec (decodeCommand w)
          { s with cmdPort := ws ++ [v], inbox := es, resValid := false, tickSync := false, draws := s.draws + 1 }

/-- When an event is to come, the step is that event (onEvent), on the state without it, the two pulses low and the
draw counter advanced: a frame on the line that decodes to an instruction runs exec of it and bytes that are no
frame cross the line all the same; a tick runs RX_TICK; a byte runs RX_BYTE, of itself when the transport holds
none and otherwise of the first byte held; a command word with none held runs the command it decodes to. With
nothing to come and the receiver ready the first held byte is taken. The event frame and the form in which events
and held bytes stand in the state are the model's choices, log entries 1 and 7. (00_scope.md, the event alphabet,
10_state.md, the rule on one event per step, 42_response_receiver.md, rx_ready, 70_reset_and_hazards.md, Stale
bytes) -/
def Obligations.StepRunsTheNextEvent : Prop :=
  (∀ (s : State) (e : Event) (es : List Event), s.inbox = e :: es →
    let t : State := { s with inbox := es, resValid := false, tickSync := false, draws := s.draws + 1 }
    step s = onEvent e t ∧
    (∀ bytes i, e = .frame bytes → decodeWire bytes = .ok i → step s = exec i t) ∧
    (∀ bytes r, e = .frame bytes → decodeWire bytes = .error r → step s = transferFrame bytes t) ∧
    (e = .tick → step s = exec .rxTick t) ∧
    (∀ w, e = .cmd w → s.cmdPort = [] → step s = exec (decodeCommand w) t) ∧
    (∀ b, e = .rxbyte b → s.rxHeld = [] → step s = exec (.rxByte b) t) ∧
    (∀ b h hs, e = .rxbyte b → rxReady s = true → s.rxHeld = h :: hs →
      step s = exec (.rxByte h) { t with rxHeld := hs ++ [b] }) ∧
    ∀ h hs, e = .offerByte → rxReady s = true → s.rxHeld = h :: hs →
      step s = exec (.rxByte h) { t with rxHeld := hs }) ∧
  ∀ (s : State) (h : Byte) (hs : List Byte), s.inbox = [] → rxReady s = true → s.rxHeld = h :: hs →
    step s =
      exec (.rxByte h) { s with rxHeld := hs, resValid := false, tickSync := false, draws := s.draws + 1 }

/-- If a step leads from SEQ_SEND or SEQ_RECV to SEQ_IDLE, it took E_TXERR, E_RXBYTE (a new byte or a held one),
E_TICK, E_LINK(0), E_RESET or a whole frame: both hangs of the spec are kept. With no event to come and nothing
held that could be taken, the step changes nothing but the pulses and the model's draw counter. That such a step
answers a next state is the model's choice, log entry 1; the event of a whole frame, which abbreviates byte
events, is the model's choice, log entry 7. (70_reset_and_hazards.md, Hangs, 93_implementation_defined.md, U10) -/
def Obligations.NothingEndsWithoutAnEvent : Prop :=
  (∀ s t : State, s.seq ≠ .idle → step s = .next t → t.seq = .idle →
    nextEvent s = .txerr ∨ nextEvent s = .tick ∨ nextEvent s = .link false ∨ nextEvent s = .offerByte ∨
    (∃ l, nextEvent s = .reset l) ∨ (∃ b, nextEvent s = .rxbyte b) ∨ ∃ bytes, nextEvent s = .frame bytes) ∧
  ∀ s : State, s.inbox = [] → (rxReady s = true → s.rxHeld = []) → (s.seq = .idle → s.cmdPort = []) →
    step s = .next { s with resValid := false, tickSync := false, draws := s.draws + 1 }

/-- For every byte sequence, CHECKSUM completes; it answers the one byte that is the sum of the bytes on unbounded
integers modulo 256, whatever their order (0 for the empty sequence), and no register, memory or flag changes
(unitOut is the model's own output, log entry 8). (R100) -/
def Obligations.ChecksumIsTheSumModulo256 : Prop :=
  ∀ (bytes : List Byte) (s : State),
    exec (.checksum bytes) s = .next { s with unitOut := .bytes [BitVec.ofNat 8 (byteSum bytes % 256)] } ∧
    ∀ others : List Byte, others.Perm bytes → exec (.checksum others) s = exec (.checksum bytes) s

/-- For all integer operands, ENC_SHORT completes and answers the five bytes 10, the low byte of the control field,
the low byte of the address, the low byte of their sum, 16; nothing else changes. (R101) -/
def Obligations.EncShortAnswersTheShortFrame : Prop :=
  ∀ (address controlField : Int) (s : State),
    exec (.encShort address controlField) s =
      .next { s with
        unitOut := .bytes [0x10#8, BitVec.ofInt 8 controlField, BitVec.ofInt 8 address,
          BitVec.ofInt 8 (controlField + address), 0x16#8] }

/-- ENC_LONG completes on all operands: with at most 250 payload bytes it answers the long frame with L = 3 + n and
the checksum over CF, AF, CI and the payload, 9 + n bytes; with more it answers the failure PayloadTooLarge.
Nothing else changes in either case. (R102) -/
def Obligations.EncLongAnswersTheLongFrameOrFails : Prop :=
  ∀ (a cf ci : Byte) (p : List Byte) (s : State),
    (p.length ≤ 250 →
      exec (.encLong a cf ci p) s = .next { s with unitOut := .bytes (specLongFrame cf a ci p) } ∧
      (specLongFrame cf a ci p).length = 9 + p.length) ∧
    (250 < p.length → exec (.encLong a cf ci p) s = .next { s with unitOut := .failed .payloadTooLarge })

/-- ENC_SINGLE completes in every state, answers the one-byte sequence E5 and changes nothing else. (R103) -/
def Obligations.EncSingleAnswersTheSingleCharacter : Prop :=
  ∀ s : State, exec .encSingle s = .next { s with unitOut := .bytes [0xE5#8] }

/-- FCB_NEXT(a) completes in every state: it answers 7B when FCB[a] is 1 and 5B when it is 0, inverts FCB[a], leaves
every other latch as it was, and nothing else changes. (41_fcb_registry.md, FCB_NEXT) -/
def Obligations.FcbNextAnswersAndInverts : Prop :=
  ∀ (a : Byte) (s : State), ∃ t : State, exec (.fcbNext a) s = .next t ∧
    t.unitOut = .controlField (if fcbBit s a then 0x7B#8 else 0x5B#8) ∧
    (∀ b, fcbBit t b = if b = a then !fcbBit s a else fcbBit s b) ∧
    t = { s with fcb := t.fcb, unitOut := t.unitOut }

/-- After any sequence of FCB_NEXT calls on any addresses, the latch of an address is its old value if that address
occurs an even number of times among them and the inverse otherwise, and one call more for that address answers 7B
when the latch is then 1 and 5B when it is 0: the control bytes of successive calls for one address alternate, and
calls for other addresses do not matter. (The answer stands in unitOut, log entry 8.) (41_fcb_registry.md,
Independence of the elements) -/
def Obligations.FcbSequencesAreIndependent : Prop :=
  ∀ (calls : List Byte) (a : Byte) (s : State), ∃ t : State,
    runInstrs (calls.map Instr.fcbNext) s = .next t ∧
    fcbBit t a = (fcbBit s a ^^ decide (calls.count a % 2 = 1)) ∧
    ∃ u : State, runInstrs ((calls ++ [a]).map Instr.fcbNext) s = .next u ∧
      u.unitOut = .controlField (if fcbBit s a ^^ decide (calls.count a % 2 = 1) then 0x7B#8 else 0x5B#8)

/-- FCB_RESET(a) completes in every state with FCB[a] = 1 and every other latch as it was; FCB_INIT completes in every
state with every latch 1; no other state changes in either. (41_fcb_registry.md, FCB_RESET, 41_fcb_registry.md,
FCB_INIT) -/
def Obligations.FcbResetAndInitSetLatches : Prop :=
  ∀ s : State,
    (∀ a : Byte, ∃ t : State, exec (.fcbReset a) s = .next t ∧
      (∀ b, fcbBit t b = if b = a then true else fcbBit s b) ∧ t = { s with fcb := t.fcb }) ∧
    ∃ t : State, exec .fcbInit s = .next t ∧ (∀ b, fcbBit t b = true) ∧ t = { s with fcb := t.fcb }

/-- If a step changes the latch of an address, then it accepted a POLL of that address with the link open, or it ended
a LINKRESET of that address with OK on a complete frame, or the link opened, or a reset came. No other command,
event or outcome writes the array. (41_fcb_registry.md, Scope and observability, 10_state.md, the frame-count-bit
latch array, 43_field_mux_and_operations.md, POLL and LINKRESET) -/
def Obligations.OnlyFourEventsWriteTheLatches : Prop :=
  ∀ (s t : State) (a : Byte), step s = .next t → fcbBit t a ≠ fcbBit s a →
    (∃ w, acceptedWord s = some w ∧ s.link = true ∧ cmdOp w = 0x1#4 ∧ cmdAddr w = a) ∨
    (s.seq = .recv ∧ s.op = 0x8#4 ∧ s.addr = a ∧ t.seq = .idle ∧ t.rxs = .complete ∧ t.res.code = .ok ∧
      t.res.cls = .single ∧ fcbBit t a = true) ∨
    (nextEvent s = .link true ∧ s.link = false ∧ fcbBit t a = true) ∨
    (∃ l, nextEvent s = .reset l) ∧ fcbBit t a = true

/-- RX_ARM completes in every state: RXN, RXEXP and ELAPSED are 0, RXS is RX_AWAIT_FIRST, tick_sync is high, and
nothing else changes, RXBUF included. (42_response_receiver.md, RX_ARM) -/
def Obligations.RxArmStartsAReceive : Prop :=
  ∀ s : State,
    exec .rxArm s =
      .next { s with rxn := 0#9, rxexp := 0#9, elapsed := 0#32, rxs := .awaitFirst, tickSync := true }

/-- With rx_ready, RX_BYTE(b) completes: RXBUF[RXN] holds b and every other byte of RXBUF is as before, RXN is one
more, and every register and memory outside the receiver, the result registers, SEQ, res_valid and the frame count
bits is unchanged (the two other buffers, the operands, TIMEOUT, ELAPSED, LINK and the transmit state among them).
Without rx_ready the engine changes nothing and the byte is the last one the transport holds.
(42_response_receiver.md, rx_ready, 42_response_receiver.md, RX_BYTE, 20_memory.md, RXBUF) -/
def Obligations.RxByteStoresTheByteOrLeavesIt : Prop :=
  ∀ (b : Byte) (s : State),
    (rxReady s = true → ∃ t : State, exec (.rxByte b) s = .next t ∧
      (∀ i, t.rxbuf.read? i = if i = s.rxn.toNat then some b else s.rxbuf.read? i) ∧
      t = { s with
        rxbuf := t.rxbuf, rxn := s.rxn + 1#9, rxexp := t.rxexp, rxs := t.rxs, res := t.res, seq := t.seq,
        resValid := t.resValid, fcb := t.fcb }) ∧
    (rxReady s = false → exec (.rxByte b) s = .next { s with rxHeld := s.rxHeld ++ [b] })

/-- In a state that meets the engine's invariant and accepts a byte: from RX_AWAIT_FIRST the byte E5 leads to
RX_COMPLETE with RXEXP 1, any other to RX_AWAIT_LEN; from RX_AWAIT_LEN a byte leads to RX_LEN_KNOWN with RXEXP = b
+ 6 when RXBUF[0] is 68 and leaves RX_AWAIT_LEN otherwise; from RX_LEN_KNOWN a byte leads to RX_COMPLETE when it
makes RXN = RXEXP and leaves RX_LEN_KNOWN otherwise. SEQ stays SEQ_RECV and the result registers are unchanged
except where RX_COMPLETE is reached. (42_response_receiver.md, States and transitions, 42_response_receiver.md,
RX_BYTE, 30_encoding.md, 4. Telling the length of a received frame) -/
def Obligations.RxByteAdvancesTheLength : Prop :=
  ∀ (b : Byte) (s : State), EngineInv s → rxReady s = true → ∃ t : State, exec (.rxByte b) s = .next t ∧
    (s.rxs = .awaitFirst → b = 0xE5#8 → t.rxs = .complete ∧ t.rxexp = 1#9) ∧
    (s.rxs = .awaitFirst → b ≠ 0xE5#8 → t.rxs = .awaitLen ∧ t.rxexp = s.rxexp) ∧
    (s.rxs = .awaitLen → s.rxbuf.read? 0 = some 0x68#8 → t.rxs = .lenKnown ∧ t.rxexp.toNat = b.toNat + 6) ∧
    (s.rxs = .awaitLen → s.rxbuf.read? 0 ≠ some 0x68#8 → t.rxs = .awaitLen ∧ t.rxexp = s.rxexp) ∧
    (s.rxs = .lenKnown → s.rxn + 1#9 = s.rxexp → t.rxs = .complete ∧ t.rxexp = s.rxexp) ∧
    (s.rxs = .lenKnown → s.rxn + 1#9 ≠ s.rxexp → t.rxs = .lenKnown ∧ t.rxexp = s.rxexp) ∧
    (t.rxs ≠ .complete → t.seq = .recv ∧ t.res = s.res ∧ t.resValid = s.resValid ∧ t.fcb = s.fcb)

/-- With rx_ready and a bus operation in OP, a byte that completes the frame ends the operation in the same step: SEQ
is SEQ_IDLE, res_valid high, RXS RX_COMPLETE, RXN = RXEXP. The result registers are those RX_CLASSIFY leaves on
the accumulated bytes, this one included (a frame with L below 3, a second length byte, a second start byte, a
stop byte or a checksum that is wrong among them), with RES_CODE and RES_FLAG of the outcome table for the
operation and that class (POLL wants an RSP_UD; WRITE and SCAN report the single character as a flag; the five
others want it) and with RES_AFMIS telling an address mismatch for an accepted POLL and otherwise as before.
LINKRESET on the single character sets FCB[ADDR] and nothing else touches a latch. Nothing else changes. Premise:
UnexpectedMessageType for the five operations without a return value and RES_FLAG 0 for WRITE and SCAN are the
spec's own decision D15, log entry 18. (43_field_mux_and_operations.md, Finishing, 43_field_mux_and_operations.md,
4. Summary, 42_response_receiver.md, RX_BYTE, 42_response_receiver.md, RX_CLASSIFY, 92_eei_decisions.md, D15) -/
def Obligations.CompleteFrameEndsTheOperation : Prop :=
  ∀ (b : Byte) (op : BusOp) (s : State), rxReady s = true → busOpOf s.op = some op → completesFrame b s →
    ∃ t c : State, exec (.rxByte b) s = .next t ∧
      exec .rxClassify { s with rxbuf := t.rxbuf, rxn := s.rxn + 1#9 } = .next c ∧
      t.res = { c.res with
        code := (outcomeOf op c.res.cls).1
        flag := (outcomeOf op c.res.cls).2
        afmis := if op = .poll ∧ c.res.cls = .rspUd then decide (c.res.af ≠ s.addr) else s.res.afmis } ∧
      (∀ a, fcbBit t a = if op = .linkreset ∧ t.res.cls = .single ∧ a = s.addr then true else fcbBit s a) ∧
      (∀ i, t.rxbuf.read? i = if i = s.rxn.toNat then some b else s.rxbuf.read? i) ∧
      t = { s with
        rxbuf := t.rxbuf, rxn := s.rxn + 1#9, rxexp := s.rxn + 1#9, rxs := .complete, res := t.res, seq := .idle,
        resValid := true, fcb := t.fcb }

/-- RX_TICK completes in every state. Unless the receiver waits in SEQ_RECV nothing changes. Otherwise ELAPSED grows
by POLL_MS; if it is then below TIMEOUT nothing else changes; if it has reached TIMEOUT the operation ends: with
RXN = 0 RXS is RX_TIMED_OUT and the code is Timeout, or OK with RES_FLAG 0 for SCAN; with RXN > 0 RXS is
RX_INCOMPLETE and the code is IncompleteMessage for every operation. Nothing else changes. Premise: that SCAN too
ends with IncompleteMessage is the spec's own decision D16, log entry 18. (42_response_receiver.md, RX_TICK,
43_field_mux_and_operations.md, Finishing) -/
def Obligations.RxTickCountsAndExpires : Prop :=
  ∀ s : State,
    (receiverWaits s = false → exec .rxTick s = .next s) ∧
    (receiverWaits s = true → s.elapsed + s.cfg.pollMs < s.timeout →
      exec .rxTick s = .next { s with elapsed := s.elapsed + s.cfg.pollMs }) ∧
    (receiverWaits s = true → s.timeout ≤ s.elapsed + s.cfg.pollMs →
      exec .rxTick s =
        .next { s with
          elapsed := s.elapsed + s.cfg.pollMs
          rxs := if s.rxn = 0#9 then .timedOut else .incomplete
          seq := .idle
          resValid := true
          res := { s.res with
            code := if s.rxn = 0#9 then (if s.op = 0x5#4 then .ok else .timeout) else .incompleteMessage
            flag := false } })

/-- From a waiting receiver with ELAPSED 0, for every legal TIMEOUT and every POLL_MS from 1 to 2^31: before tick
number ceil(TIMEOUT / POLL_MS) only ELAPSED has grown, by POLL_MS a tick; at that tick the operation ends, with
RX_TIMED_OUT if no byte was received and RX_INCOMPLETE otherwise, and ELAPSED has not wrapped.
(42_response_receiver.md, RX_TICK, corner cases, 42_response_receiver.md, Termination) -/
def Obligations.TimeoutTakesItsNumberOfTicks : Prop :=
  ∀ s : State, receiverWaits s = true → s.elapsed = 0#32 → 1 ≤ s.timeout.toNat → s.timeout.toNat < 2 ^ 31 →
    1 ≤ s.cfg.pollMs.toNat → s.cfg.pollMs.toNat ≤ 2 ^ 31 →
    let ticks := (s.timeout.toNat + s.cfg.pollMs.toNat - 1) / s.cfg.pollMs.toNat
    (∀ k, k < ticks →
      runInstrs (List.replicate k .rxTick) s =
        .next { s with elapsed := BitVec.ofNat 32 (k * s.cfg.pollMs.toNat) }) ∧
    ∃ t : State, runInstrs (List.replicate ticks .rxTick) s = .next t ∧
      t.seq = .idle ∧ t.resValid = true ∧ t.elapsed.toNat = ticks * s.cfg.pollMs.toNat ∧
      t.rxs = (if s.rxn = 0#9 then .timedOut else .incomplete) ∧
      t = { s with elapsed := t.elapsed, rxs := t.rxs, seq := .idle, resValid := true, res := t.res }

/-- RX_CLASSIFY completes in every state and writes result registers only; RES_CODE, RES_FLAG and RES_AFMIS stay. With
RXN = 1 the class is CLASS_SINGLE and the others stay. Otherwise each bit of RES_INTEG is its check on RXBUF with
L = RXBUF[1]; with L at least 3 the field registers hold RXBUF[4], RXBUF[5], RXBUF[6] and L - 3 and otherwise
stay; the class is CLASS_RSP_UD exactly when L is at least 3 and, with RX_INTEGRITY_CHECK = 1, the other four
checks pass, and CLASS_MALFORMED otherwise. That it runs outside RX_COMPLETE too is the model's choice, log entry
11. (42_response_receiver.md, RX_CLASSIFY, 42_response_receiver.md, the five integrity checks) -/
def Obligations.ClassifierComputesTheFiveChecks : Prop :=
  ∀ s : State, ∃ t : State, exec .rxClassify s = .next t ∧ t = { s with res := t.res } ∧
    (s.rxn = 1#9 → t.res = { s.res with cls := .single }) ∧
    (s.rxn ≠ 1#9 →
      let l := (s.byteAt .rxbuf 1).toNat
      let sum := BitVec.ofNat 8 (byteSum ((List.range l).map (fun k => s.byteAt .rxbuf (4 + k))) % 256)
      t.res.integ.getLsbD 0 = decide (3 ≤ l) ∧
      t.res.integ.getLsbD 1 = decide (s.byteAt .rxbuf 2 = s.byteAt .rxbuf 1) ∧
      t.res.integ.getLsbD 2 = decide (s.byteAt .rxbuf 3 = 0x68#8) ∧
      t.res.integ.getLsbD 3 = decide (s.byteAt .rxbuf (l + 5) = 0x16#8) ∧
      t.res.integ.getLsbD 4 = decide (s.byteAt .rxbuf (l + 4) = sum) ∧
      (3 ≤ l → t.res.cf = s.byteAt .rxbuf 4 ∧ t.res.af = s.byteAt .rxbuf 5 ∧ t.res.ci = s.byteAt .rxbuf 6 ∧
        t.res.plen.toNat = l - 3) ∧
      (l < 3 → t.res.cf = s.res.cf ∧ t.res.af = s.res.af ∧ t.res.ci = s.res.ci ∧ t.res.plen = s.res.plen) ∧
      (t.res.cls = if 3 ≤ l ∧ (s.cfg.rxIntegrityCheck = false ∨ t.res.integ = 0b11111#5) then .rspUd
        else .malformed) ∧
      t.res.code = s.res.code ∧ t.res.flag = s.res.flag ∧ t.res.afmis = s.res.afmis)

/-- When the receiver was just armed and the first byte is neither E5 nor 68, then after that byte and any further
bytes the receive is still under way in RX_AWAIT_LEN with no result; the first 261 bytes are accumulated in
arrival order and all others stay, in order, with the transport. (30_encoding.md, 5. Reserved and illegal
encodings, 42_response_receiver.md, Buffer full) -/
def Obligations.UnknownStartNeverCompletes : Prop :=
  ∀ (b : Byte) (bs : List Byte) (s : State), JustArmed s → b ≠ 0xE5#8 → b ≠ 0x68#8 →
    ∃ t : State, runEvents ((b :: bs).map Event.rxbyte) s = .next t ∧
      t.seq = .recv ∧ t.rxs = .awaitLen ∧ t.res = s.res ∧ t.rxn.toNat = min 261 (b :: bs).length ∧
      (∀ k, k < t.rxn.toNat → t.rxbuf.read? k = (b :: bs)[k]?) ∧ t.rxHeld = (b :: bs).drop 261

/-- MUX completes for every operation in every state and answers the kind of frame, control field, address field, CI
and payload source of the table; the seven rows other than POLL change nothing but that answer, and the POLL row
also inverts FCB[ADDR] and no other latch. (43_field_mux_and_operations.md, the table of the field multiplexer,
43_field_mux_and_operations.md, the payload source multiplexer) -/
def Obligations.MuxSelectsTheFields : Prop :=
  ∀ s : State,
    (∃ t : State, exec (.mux .poll) s = .next t ∧
      t.unitOut = .fields (.short (if fcbBit s s.addr then 0x7B#8 else 0x5B#8) s.addr) ∧
      (∀ b, fcbBit t b = if b = s.addr then !fcbBit s s.addr else fcbBit s b) ∧
      t = { s with fcb := t.fcb, unitOut := t.unitOut }) ∧
    (∀ r ∈ [(BusOp.write, FrameFields.long 0x73#8 s.addr 0x51#8 (.hostPayload s.plen)),
        (.select, .long 0x53#8 0xFD#8 0x52#8 .secondary), (.deselect, .long 0x53#8 0xFD#8 0x56#8 .secondary),
        (.scan, .long 0x53#8 0xFD#8 0x52#8 .secondary), (.selro, .long 0x53#8 s.addr 0x51#8 (.hostPayload s.plen)),
        (.rstro, .long 0x53#8 s.addr 0x50#8 (.hostPayload s.plen)), (.linkreset, .short 0x40#8 s.addr)],
      exec (.mux r.1) s = .next { s with unitOut := .fields r.2 })

/-- For each of the 11 wire rows (SINGLE_CHARACTER, SHORT_FRAME, LONG_FRAME, the three short and the five long request
frames): when the engine offers exactly that frame, the row's instruction completes; the transmit trace grows by
the frame's bytes in order, TXI is TXLEN, SEQ is SEQ_RECV, the receiver is armed with tick_sync, and nothing else
changes. That a wire row means its frame crossing the line is the model's choice, log entry 7.
(43_field_mux_and_operations.md, Sending, 42_response_receiver.md, RX_ARM) -/
def Obligations.OfferedFrameLeavesWhole : Prop :=
  ∀ (i : Instr) (bytes : List Byte) (s : State), encode i = some (.wire bytes) → offersFrame bytes s = true →
    exec i s =
      .next { s with
        tx := s.tx ++ bytes, txI := s.txLen, seq := .recv, rxn := 0#9, rxexp := 0#9, elapsed := 0#32,
        rxs := .awaitFirst, tickSync := true }

/-- For each of the 11 wire rows: when the engine does not offer that frame and rx_ready is low, the row's instruction
completes, its bytes stand in order behind the bytes the transport holds already, and the engine changes nothing.
That a wire row means its frame crossing the line is the model's choice, log entry 7. (42_response_receiver.md,
rx_ready, 70_reset_and_hazards.md, Stale bytes) -/
def Obligations.FrameWithoutReceiverIsHeld : Prop :=
  ∀ (i : Instr) (bytes : List Byte) (s : State), encode i = some (.wire bytes) → offersFrame bytes s = false →
    rxReady s = false → exec i s = .next { s with rxHeld := s.rxHeld ++ bytes }

/-- For each of the 11 wire rows: when the engine offers exactly that frame, the row's instruction does what as many
E_TXACK events as the frame has bytes do one after the other, to every field of the state. That a wire row means
its frame crossing the line is the model's choice, log entry 7. (43_field_mux_and_operations.md, Sending) -/
def Obligations.SentFrameIsItsAcknowledgements : Prop :=
  ∀ (i : Instr) (bytes : List Byte) (s : State), encode i = some (.wire bytes) → offersFrame bytes s = true →
    exec i s = runEvents (List.replicate bytes.length .txack) s

/-- For each of the 11 wire rows: when the engine does not offer that frame, the row's instruction does what the
E_RXBYTE events of its bytes and then one offering for each byte the transport held before do one after the other,
to every field of the state: the bytes held come first, and bytes after the frame completes, or after the buffer
is full, stay with the transport. With no byte held it is the events of its bytes alone. That a wire row means its
frame crossing the line is the model's choice, log entry 7. (42_response_receiver.md, RX_BYTE,
42_response_receiver.md, rx_ready, 70_reset_and_hazards.md, Stale bytes) -/
def Obligations.ArrivingFrameIsItsBytes : Prop :=
  ∀ (i : Instr) (bytes : List Byte) (s : State), encode i = some (.wire bytes) → offersFrame bytes s = false →
    exec i s = runEvents (bytes.map Event.rxbyte ++ List.replicate s.rxHeld.length .offerByte) s

/-- When the receiver was just armed for a bus operation, the single character completes: one byte E5 in RXBUF[0], RXN
= RXEXP = 1, RX_COMPLETE, CLASS_SINGLE, SEQ_IDLE, res_valid; the code is OK with RES_FLAG 1 except for POLL, which
ends UnexpectedMessageType; LINKRESET sets FCB[ADDR] and no other latch changes; ELAPSED stays and nothing else
changes. That a wire row means its frame crossing the line is the model's choice, log entry 7.
(42_response_receiver.md, RX_BYTE, 43_field_mux_and_operations.md, 4. Summary) -/
def Obligations.SingleCharacterAcknowledges : Prop :=
  ∀ (op : BusOp) (s : State), JustArmed s → busOpOf s.op = some op → ∃ t : State,
    exec .singleCharacter s = .next t ∧
    t.res = { s.res with
      cls := .single
      code := if op = .poll then .unexpectedMessageType else .ok
      flag := decide (op ≠ .poll) } ∧
    (∀ a, fcbBit t a = if op = .linkreset ∧ a = s.addr then true else fcbBit s a) ∧
    (∀ i, t.rxbuf.read? i = if i = 0 then some 0xE5#8 else s.rxbuf.read? i) ∧
    t = { s with
      rxn := 1#9, rxexp := 1#9, rxs := .complete, seq := .idle, resValid := true, res := t.res, rxbuf := t.rxbuf,
      fcb := t.fcb }

/-- When the receiver was just armed, each of the four short rows (SHORT_FRAME, REQ_UD2 with FCB 1 and 0, SND_NKE)
completes: its five bytes stand in RXBUF[0..4], RXN is 5, RXS is RX_AWAIT_LEN, no length is known and no result
written, and nothing else changes. That a wire row means its frame crossing the line is the model's choice, log
entry 7. (30_encoding.md, 5. Reserved and illegal encodings, 42_response_receiver.md, RX_BYTE,
43_field_mux_and_operations.md, the echo of the engine's own frame) -/
def Obligations.ShortFramesAreOnlyAccumulated : Prop :=
  ∀ (i : Instr) (cf af cs : Byte) (s : State), JustArmed s → encode i = some (.wire [0x10#8, cf, af, cs, 0x16#8]) →
    ∃ t : State, exec i s = .next t ∧
      (∀ k, t.rxbuf.read? k = if k < 5 then [0x10#8, cf, af, cs, 0x16#8][k]? else s.rxbuf.read? k) ∧
      t = { s with rxbuf := t.rxbuf, rxn := 5#9, rxs := .awaitLen }

/-- When the receiver was just armed for a bus operation, each of the six long rows (LONG_FRAME and the five SND_UD
frames) with a payload of at most 252 bytes and any checksum byte completes: RX_COMPLETE, RXN 9 + n, SEQ_IDLE,
res_valid; the first four integrity bits are 1 and the fifth tells whether the checksum byte is the sum of CF, AF,
CI and the payload modulo 256; the class is CLASS_MALFORMED when it is not and RX_INTEGRITY_CHECK is 1, and
CLASS_RSP_UD otherwise; RES_CF, RES_AF, RES_CI and RES_PLEN hold the frame's fields and n; RES_AFMIS tells an
address mismatch for an accepted POLL and is otherwise as before; RES_CODE and RES_FLAG follow the outcome table
for the operation and that class. Nothing else changes. Premises: the outcomes other than those of POLL and WRITE
are the spec's own decision D15, log entry 18; that a wire row means its frame crossing the line is the model's
choice, log entry 7. (42_response_receiver.md, RX_CLASSIFY, 42_response_receiver.md, the five integrity checks,
43_field_mux_and_operations.md, Finishing, 92_eei_decisions.md, D15) -/
def Obligations.LongFramesAreClassifiedByTheirChecksum : Prop :=
  ∀ (i : Instr) (op : BusOp) (cf af ci : Byte) (p : List Byte) (cs : Byte) (s : State), JustArmed s →
    busOpOf s.op = some op → p.length ≤ 252 → encode i = some (.wire (longBytes cf af ci p cs)) →
    let sumOk := decide (cs = BitVec.ofNat 8 ((cf.toNat + af.toNat + ci.toNat + byteSum p) % 256))
    let cls : FrameClass := if s.cfg.rxIntegrityCheck = true ∧ sumOk = false then .malformed else .rspUd
    ∃ t : State, exec i s = .next t ∧
      t.rxn.toNat = 9 + p.length ∧
      t.res = {
        code := (outcomeOf op cls).1, flag := (outcomeOf op cls).2, cls := cls, cf := cf, af := af, ci := ci,
        plen := BitVec.ofNat 8 p.length,
        afmis := if op = .poll ∧ cls = .rspUd then decide (af ≠ s.addr) else s.res.afmis,
        integ := BitVec.ofBool sumOk ++ 0b1111#4 } ∧
      (∀ k, t.rxbuf.read? k = if k < 9 + p.length then (longBytes cf af ci p cs)[k]? else s.rxbuf.read? k) ∧
      t = { s with
        rxbuf := t.rxbuf, rxn := t.rxn, rxexp := t.rxn, rxs := .complete, res := t.res, seq := .idle,
        resValid := true }

/-- When the receiver was just armed for a POLL with cleared results, a long frame with any control, address and CI
field, any payload of 0 to 252 bytes and its checksum completes the poll: OK, RES_FLAG 1, CLASS_RSP_UD, all five
integrity bits, the fields in their registers, RES_PLEN the payload's length, RES_AFMIS exactly when the address
field differs from ADDR, and the payload handed to the decoder is the frame's, byte for byte. It holds for both
values of RX_INTEGRITY_CHECK. That a wire row means its frame crossing the line is the model's choice, log entry
7. (42_response_receiver.md, RX_CLASSIFY, 42_response_receiver.md, What is handed to the external decoder,
43_field_mux_and_operations.md, POLL) -/
def Obligations.LongFrameAnswersAPoll : Prop :=
  ∀ (cf af ci : Byte) (p : List Byte) (s : State), JustArmed s → s.op = 0x1#4 → s.res = {} → p.length ≤ 252 →
    ∃ t : State,
      exec (.longFrame cf af ci p (BitVec.ofNat 8 ((cf.toNat + af.toNat + ci.toNat + byteSum p) % 256))) s = .next t ∧
      t.seq = .idle ∧ t.resValid = true ∧ t.rxs = .complete ∧ t.rxn.toNat = 9 + p.length ∧
      t.res = {
        code := .ok, flag := true, cls := .rspUd, cf := cf, af := af, ci := ci, plen := BitVec.ofNat 8 p.length,
        afmis := decide (af ≠ s.addr), integ := 0b11111#5 } ∧
      deliveredPayload t = p

/-- From SEQ_IDLE with the link open and neither a byte nor a command word held outside, for every address and every
control, address and CI field and payload of up to 252 bytes of the response: the command word of POLL, five
E_TXACK and the bytes of the response lead to SEQ_IDLE with OK; the transmit trace has grown by exactly 10 CF AF
CS 16 with CF 7B or 5B by the latch, the latch of the address is inverted and no other, and the payload handed
over is that of the response. (43_field_mux_and_operations.md, POLL, 43_field_mux_and_operations.md, Sending,
42_response_receiver.md, What is handed to the external decoder, 41_fcb_registry.md, FCB_NEXT) -/
def Obligations.AnsweredPollDeliversItsPayload : Prop :=
  ∀ (a : Byte) (sc : SecAddr) (n : BitVec 16) (tm : BitVec 32) (cf af ci : Byte) (p : List Byte) (s : State),
    s.seq = .idle → s.link = true → s.rxHeld = [] → s.cmdPort = [] → p.length ≤ 252 →
    ∃ t : State,
      runEvents ([.cmd (commandWord 0x1#4 a sc n tm)] ++ List.replicate 5 .txack ++
        (specLongFrame cf af ci p).map Event.rxbyte) s = .next t ∧
      t.seq = .idle ∧ t.res.code = .ok ∧ t.res.flag = true ∧ t.res.afmis = decide (af ≠ a) ∧
      t.tx = s.tx ++ specShortFrame (if fcbBit s a then 0x7B#8 else 0x5B#8) a ∧
      (∀ b, fcbBit t b = if b = a then !fcbBit s a else fcbBit s b) ∧
      t.res.af = af ∧ t.res.ci = ci ∧ deliveredPayload t = p

/-- In SEQ_IDLE with LINK = 1, POLL completes: the operands are latched, the results cleared, TXBUF[0..4] holds 10 CF
AF CS 16 with CF 7B or 5B by FCB[ADDR] and CS their sum modulo 256, TXLEN is 5, TXI 0, SEQ is SEQ_SEND, FCB[ADDR]
is inverted and no other latch; nothing else changes, the other bytes of TXBUF and the two other buffers included.
(43_field_mux_and_operations.md, Accepting a bus command, 43_field_mux_and_operations.md, POLL) -/
def Obligations.PollBuildsItsRequest : Prop :=
  ∀ (a : Byte) (sc : SecAddr) (n : BitVec 16) (tm : BitVec 32) (s : State), s.seq = .idle → s.link = true →
    ∃ t : State, exec (.poll a sc n tm) s = .next t ∧
      FrameBuilt 0x1#4 a sc n (specShortFrame (if fcbBit s a then 0x7B#8 else 0x5B#8) a) s t ∧
      ∀ b, fcbBit t b = if b = a then !fcbBit s a else fcbBit s b

/-- In SEQ_IDLE with LINK = 1 and a payload length of at most 250, WRITE, SELRO and RSTRO complete: TXBUF holds the
long frame with control and CI fields 73/51, 53/51 and 53/50, the operand address and the bytes PAYLOAD[0..n-1] as
they stand in this step, TXLEN is 9 + n, sending begins, no frame count bit changes and nothing else changes. That
a command whose PAYLOAD bytes were never written completes too, with a free value for each such byte, is the
model's choice, log entry 4: R35 and R203 ask a model to refuse it, and U3 allows any value.
(43_field_mux_and_operations.md, WRITE, 43_field_mux_and_operations.md, SELRO and RSTRO,
43_field_mux_and_operations.md, the payload source multiplexer) -/
def Obligations.PayloadCommandsBuildTheirRequests : Prop :=
  ∀ (a : Byte) (sc : SecAddr) (n : BitVec 16) (tm : BitVec 32) (s : State), s.seq = .idle → s.link = true →
    n.toNat ≤ 250 →
    let p := (List.range n.toNat).map (fun k => s.byteAt .payload k)
    (∃ t : State, exec (.write a sc n tm) s = .next t ∧
      FrameBuilt 0x2#4 a sc n (specLongFrame 0x73#8 a 0x51#8 p) s t ∧ t.fcb = s.fcb) ∧
    (∃ t : State, exec (.selro a sc n tm) s = .next t ∧
      FrameBuilt 0x6#4 a sc n (specLongFrame 0x53#8 a 0x51#8 p) s t ∧ t.fcb = s.fcb) ∧
    ∃ t : State, exec (.rstro a sc n tm) s = .next t ∧
      FrameBuilt 0x7#4 a sc n (specLongFrame 0x53#8 a 0x50#8 p) s t ∧ t.fcb = s.fcb

/-- In SEQ_IDLE with LINK = 1, SELECT, DESELECT and SCAN complete for every operand: TXBUF holds the long frame with
control field 53, address field FD, CI 52, 56 and 52, and as payload the eight bytes of the secondary address
operand, bits 7:0 first; cmd_addr is latched and otherwise ignored, no frame count bit changes and nothing else
changes. (43_field_mux_and_operations.md, SELECT, DESELECT and SCAN, 20_memory.md, the secondary address is passed
through) -/
def Obligations.SecondaryCommandsBuildTheirRequests : Prop :=
  ∀ (a : Byte) (sc : SecAddr) (n : BitVec 16) (tm : BitVec 32) (s : State), s.seq = .idle → s.link = true →
    let p := [sc.extractLsb' 0 8, sc.extractLsb' 8 8, sc.extractLsb' 16 8, sc.extractLsb' 24 8, sc.extractLsb' 32 8,
      sc.extractLsb' 40 8, sc.extractLsb' 48 8, sc.extractLsb' 56 8]
    (∃ t : State, exec (.select a sc n tm) s = .next t ∧
      FrameBuilt 0x3#4 a sc n (specLongFrame 0x53#8 0xFD#8 0x52#8 p) s t ∧ t.fcb = s.fcb) ∧
    (∃ t : State, exec (.deselect a sc n tm) s = .next t ∧
      FrameBuilt 0x4#4 a sc n (specLongFrame 0x53#8 0xFD#8 0x56#8 p) s t ∧ t.fcb = s.fcb) ∧
    ∃ t : State, exec (.scan a sc n tm) s = .next t ∧
      FrameBuilt 0x5#4 a sc n (specLongFrame 0x53#8 0xFD#8 0x52#8 p) s t ∧ t.fcb = s.fcb

/-- In SEQ_IDLE with LINK = 1, LINKRESET completes: TXBUF[0..4] holds 10 40 AF CS 16 with CS the sum of 40 and the
address modulo 256, sending begins, no frame count bit changes and nothing else changes.
(43_field_mux_and_operations.md, LINKRESET) -/
def Obligations.LinkResetBuildsItsRequest : Prop :=
  ∀ (a : Byte) (sc : SecAddr) (n : BitVec 16) (tm : BitVec 32) (s : State), s.seq = .idle → s.link = true →
    ∃ t : State, exec (.linkreset a sc n tm) s = .next t ∧
      FrameBuilt 0x8#4 a sc n (specShortFrame 0x40#8 a) s t ∧ t.fcb = s.fcb

/-- In SEQ_IDLE with LINK = 0 every one of the eight bus commands, also one whose payload is too long, ends in the
accepting step with NotOpen: the operands are latched, the results otherwise cleared, SEQ stays SEQ_IDLE,
res_valid is high, and nothing else changes: no frame is built, the receiver is not armed, no frame count bit
changes. (R172) -/
def Obligations.ClosedLinkGivesNotOpen : Prop :=
  ∀ (op : BusOp) (a : Byte) (sc : SecAddr) (n : BitVec 16) (tm : BitVec 32) (s : State), s.seq = .idle →
    s.link = false →
    ∃ t : State, exec (busInstr op a sc n tm) s = .next t ∧
      EndedAtAcceptance (opcodeOf op) a sc n .notOpen false s t

/-- In SEQ_IDLE with LINK = 1 and a payload length above 250, WRITE, SELRO and RSTRO end in the accepting step with
PayloadTooLarge: the operands are latched, the results otherwise cleared, and nothing else changes, TXBUF, TXLEN
and TXI included. (60_exceptions.md, PayloadTooLarge, 40_frame_codec.md, ENC_LONG) -/
def Obligations.LongPayloadIsTooLarge : Prop :=
  ∀ (op : BusOp) (a : Byte) (sc : SecAddr) (n : BitVec 16) (tm : BitVec 32) (s : State),
    op = .write ∨ op = .selro ∨ op = .rstro → s.seq = .idle → s.link = true → 250 < n.toNat →
    ∃ t : State, exec (busInstr op a sc n tm) s = .next t ∧
      EndedAtAcceptance (opcodeOf op) a sc n .payloadTooLarge false s t

/-- In SEQ_IDLE, whatever LINK is, SETTIMEOUT completes: with an operand above 0 as a two's-complement number TIMEOUT
holds it and the result is OK with RES_FLAG 1; otherwise the result is InvalidArgument and TIMEOUT is unchanged.
The operands are latched, the results otherwise cleared, and nothing else changes. Premise: that SETTIMEOUT is not
gated by the link is the spec's own decision D19, log entry 18. (44_session_control.md, SETTIMEOUT) -/
def Obligations.SetTimeoutWritesAPositiveNumber : Prop :=
  ∀ (a : Byte) (sc : SecAddr) (n : BitVec 16) (tm : BitVec 32) (s : State), s.seq = .idle →
    (0 < tm.toInt → ∃ t : State, exec (.settimeout a sc n tm) s = .next t ∧
      EndedAtAcceptance 0x9#4 a sc n .ok true { s with timeout := tm } t) ∧
    (tm.toInt ≤ 0 → ∃ t : State, exec (.settimeout a sc n tm) s = .next t ∧
      EndedAtAcceptance 0x9#4 a sc n .invalidArgument false s t)

/-- In SEQ_IDLE each of RESERVED_0 and RESERVED_A to RESERVED_F completes with InvalidArgument: the operands are
latched, the results otherwise cleared, res_valid is high, and nothing else changes: not TIMEOUT, not the frame
count bits, not the buffers, and SEQ stays SEQ_IDLE. (R82) -/
def Obligations.ReservedOpcodesAreInvalid : Prop :=
  ∀ (a : Byte) (sc : SecAddr) (n : BitVec 16) (tm : BitVec 32) (s : State), s.seq = .idle →
    ∀ r ∈ reservedRows a sc n tm, ∃ t : State, exec r.2 s = .next t ∧
      EndedAtAcceptance r.1 a sc n .invalidArgument false s t

/-- With SEQ other than SEQ_IDLE, every command word, of a bus operation, SETTIMEOUT or a reserved opcode, changes
nothing in the engine and is the last word the host holds at the command port, all 124 bits of it: not accepted,
not queued in the engine and not lost. (44_session_control.md, One command at a time) -/
def Obligations.BusyEngineAcceptsNoCommand : Prop :=
  ∀ (w : CommandWord) (s : State), s.seq ≠ .idle →
    exec (decodeCommand w) s = .next { s with cmdPort := s.cmdPort ++ [w] }

/-- E_PAYWR(i, v) with i at most 249 leaves v at PAYLOAD[i], every other byte of PAYLOAD as it was and everything else
unchanged, a frame in TXBUF included; with i above 249 nothing changes. (20_memory.md, PAYLOAD) -/
def Obligations.PayloadWriteIsOneByte : Prop :=
  ∀ (i : BitVec 8) (v : Byte) (s : State),
    (i.toNat ≤ 249 → ∃ t : State, runEvents [.paywr i v] s = .next t ∧
      (∀ k, t.payload.read? k = if k = i.toNat then some v else s.payload.read? k) ∧
      t = { s with payload := t.payload }) ∧
    (249 < i.toNat → runEvents [.paywr i v] s = .next s)

/-- In a state that meets the engine's invariant: in SEQ_SEND the byte TXBUF[TXI] is appended to the transmit trace
and TXI grows by one; if bytes remain nothing else changes; if it was the last, SEQ is SEQ_RECV and the receiver
is armed. Outside SEQ_SEND nothing changes (that a stray E_TXACK is dropped is deduced, log entry 6).
(43_field_mux_and_operations.md, Sending, 10_state.md, the order of events in a cycle) -/
def Obligations.AcknowledgedByteLeaves : Prop :=
  ∀ s : State, EngineInv s →
    (s.seq = .send → ∃ b, s.txbuf.read? s.txI.toNat = some b ∧
      (s.txI.toNat + 1 < s.txLen.toNat →
        runEvents [.txack] s = .next { s with tx := s.tx ++ [b], txI := s.txI + 1#9 }) ∧
      (s.txI.toNat + 1 = s.txLen.toNat →
        runEvents [.txack] s =
          .next { s with
            tx := s.tx ++ [b], txI := s.txLen, seq := .recv, rxn := 0#9, rxexp := 0#9, elapsed := 0#32,
            rxs := .awaitFirst, tickSync := true })) ∧
    (s.seq ≠ .send → runEvents [.txack] s = .next s)

/-- An E_TXERR in SEQ_SEND ends the command with IOError and RES_FLAG 0, and for SCAN with OK and RES_FLAG 1; the link
closing in SEQ_SEND does the same and lowers LINK. SEQ is SEQ_IDLE, res_valid high; the emitted bytes, TXI, the
receiver and the frame count bits stay, and nothing else changes. An E_TXERR outside SEQ_SEND changes nothing.
(R144) -/
def Obligations.SendFailureIsIoErrorExceptForScan : Prop :=
  ∀ s : State,
    (s.seq = .send →
      let r : Results :=
        if s.op = 0x5#4 then { s.res with code := .ok, flag := true } else { s.res with code := .ioError, flag := false }
      runEvents [.txerr] s = .next { s with res := r, seq := .idle, resValid := true } ∧
      (s.link = true →
        runEvents [.link false] s = .next { s with link := false, res := r, seq := .idle, resValid := true })) ∧
    (s.seq ≠ .send → runEvents [.txerr] s = .next s)

/-- E_LINK(1) with LINK = 0 sets LINK and every frame count bit and changes nothing else. E_LINK(0) with LINK = 1
clears LINK; in SEQ_IDLE nothing else changes; in SEQ_RECV the command ends with IOError, SCAN included, with
SEQ_IDLE and res_valid, RXS left as it was. E_LINK(b) with LINK = b changes nothing. Premise: IOError for SCAN too
when the link closes while receiving is the spec's own decision D17, log entry 18. (44_session_control.md, Session
start and end, 43_field_mux_and_operations.md, The link closing during an operation) -/
def Obligations.LinkEventsStartAndEndSessions : Prop :=
  ∀ s : State,
    (s.link = false → ∃ t : State, runEvents [.link true] s = .next t ∧ (∀ a, fcbBit t a = true) ∧
      t = { s with link := true, fcb := t.fcb }) ∧
    (s.link = true → s.seq = .idle → runEvents [.link false] s = .next { s with link := false }) ∧
    (s.link = true → s.seq = .recv →
      runEvents [.link false] s =
        .next { s with
          link := false, res := { s.res with code := .ioError, flag := false }, seq := .idle, resValid := true }) ∧
    runEvents [.link s.link] s = .next s

/-- E_RESET completes in every state: every frame count bit is 1, TIMEOUT 300, SEQ idle, RXS idle, the counters,
operands and results 0, LINK the present level of link_open, no buffer byte holds a value, the trace is empty and
res_valid is low. The parameters and what the host and the transport hold stay (the model's choice, log entry 13).
(10_state.md, 9. Reset values, 70_reset_and_hazards.md, 1. Reset) -/
def Obligations.ResetGivesTheResetValues : Prop :=
  ∀ (l : Bool) (s : State), ∃ t : State, runEvents [.reset l] s = .next t ∧
    (∀ a, fcbBit t a = true) ∧ t.timeout.toNat = 300 ∧ t.seq = .idle ∧ t.rxs = .idle ∧ t.rxn = 0#9 ∧
    t.rxexp = 0#9 ∧ t.elapsed = 0#32 ∧ t.txI = 0#9 ∧ t.txLen = 0#9 ∧ t.op = 0#4 ∧ t.addr = 0#8 ∧ t.sec = 0#64 ∧
    t.plen = 0#16 ∧ t.res = {} ∧ t.link = l ∧ t.tx = [] ∧ t.resValid = false ∧ t.tickSync = false ∧
    (∀ buf i, (t.buffer buf).read? i = none) ∧ t.cfg = s.cfg ∧ t.cmdPort = s.cmdPort ∧ t.rxHeld = s.rxHeld ∧
    t.inbox = s.inbox

/-- For a clock cycle that begins with rx_ready and a bus operation in OP, in which the first byte at the transport
(held or new) completes the frame and a tick falls, with link_open as before and no payload write: the cycle does
exactly what RX_BYTE of that byte does, whatever tx_err and tx_ready are; what else is new stays with the
transport and the host. How a cycle stands in the state is log entry 20. (10_state.md, the order of events in a
cycle, 42_response_receiver.md, Byte and tick together) -/
def Obligations.CompletingByteWinsOverTheTick : Prop :=
  ∀ (b : Byte) (rest : List Byte) (p : CycleInputs) (s : State), rxReady s = true → (busOpOf s.op).isSome = true →
    completesFrame b s → p.rst = false → p.linkOpen = s.link → p.tick = true → p.pay = none →
    s.rxHeld ++ p.rx.toList = b :: rest →
    runCycle p s = exec (.rxByte b) { s with rxHeld := rest, cmdPort := s.cmdPort ++ p.cmd.toList }

/-- For a clock cycle that begins with rx_ready in a state that meets the engine's invariant, in which the first byte
at the transport does not complete the frame and a tick falls, with link_open as before and no payload write: the
cycle does what RX_BYTE of that byte does and then counts the tick on the result; if ELAPSED then reaches TIMEOUT
the operation ends with RX_INCOMPLETE and IncompleteMessage, also when this byte was the first. How a cycle stands
in the state is log entry 20. (10_state.md, the order of events in a cycle, 42_response_receiver.md, Byte and tick
together, 60_exceptions.md, Priority when several causes apply) -/
def Obligations.ByteIsCountedBeforeTheTickOfItsCycle : Prop :=
  ∀ (b : Byte) (rest : List Byte) (p : CycleInputs) (s : State), EngineInv s → rxReady s = true →
    ¬ completesFrame b s → p.rst = false → p.linkOpen = s.link → p.tick = true → p.pay = none →
    s.rxHeld ++ p.rx.toList = b :: rest →
    ∃ t : State, exec (.rxByte b) { s with rxHeld := rest, cmdPort := s.cmdPort ++ p.cmd.toList } = .next t ∧
      t.seq = .recv ∧ t.rxn = s.rxn + 1#9 ∧
      (s.elapsed + s.cfg.pollMs < s.timeout → runCycle p s = .next { t with elapsed := s.elapsed + s.cfg.pollMs }) ∧
      (s.timeout ≤ s.elapsed + s.cfg.pollMs →
        runCycle p s =
          .next { t with
            elapsed := s.elapsed + s.cfg.pollMs, rxs := .incomplete, seq := .idle, resValid := true,
            res := { t.res with code := .incompleteMessage, flag := false } })

/-- For a clock cycle with any inputs. With rst high, the first step on the offered cycle is the reset, also when the
transport holds a byte or the host a command word. With link_open falling while a command is in progress, the
cycle is the link event and the payload write: tx_err, tx_ready, a byte and a tick change nothing. With tx_err in
SEQ_SEND, the cycle is that failure and the payload write, the last tx_ready, a byte, a tick and a held command
word notwithstanding. In SEQ_IDLE a payload write comes before the first command word held, and so does the link
closing. Bytes and words that are not taken stay held. How a cycle stands in the state is log entry 20.
(10_state.md, the order of events in a cycle, 60_exceptions.md, Priority when several causes apply,
70_reset_and_hazards.md, E_RESET) -/
def Obligations.EventsOfACycleComeInTheirOrder : Prop :=
  ∀ (p : CycleInputs) (s : State),
    (p.rst = true → s.inbox = [] →
      step (offerCycle p s) =
        onEvent (.reset p.linkOpen)
          { cycleArrivals p s with resValid := false, tickSync := false, draws := s.draws + 1 }) ∧
    (p.rst = false →
      let writes := p.pay.toList.map (fun w => Event.paywr w.1 w.2)
      (p.linkOpen = false → s.link = true → s.seq ≠ .idle →
        runCycle p s = runEvents (.link false :: writes) (cycleArrivals p s)) ∧
      (p.linkOpen = s.link → p.txErr = true → s.seq = .send →
        runCycle p s = runEvents (.txerr :: writes) (cycleArrivals p s)) ∧
      ∀ w ws, s.seq = .idle → s.cmdPort ++ p.cmd.toList = w :: ws →
        (∀ i v, p.linkOpen = s.link → p.pay = some (i, v) → i.toNat ≤ 249 →
          runCycle p s =
            exec (decodeCommand w) { cycleArrivals p s with cmdPort := ws, payload := s.payload.write i.toNat v }) ∧
        (p.linkOpen = false → s.link = true → p.pay = none →
          runCycle p s = exec (decodeCommand w) { cycleArrivals p s with cmdPort := ws, link := false }))

/-- Sys2Proof.Machine.State.reset meets the invariant of the engine. (Its level link_open = 1 is the model's choice,
log entry 2.) (10_state.md, 9. Reset values) -/
def Obligations.ResetStateIsSound : Prop :=
  EngineInv State.reset

/-- From every state that meets the invariant, whatever events come, a step that answers a next state answers one that
meets it: the buffers keep their canonical form and hold no index that does not exist (TXBUF[259] and TXBUF[260]
are never written), a frame of 5 to 259 bytes stands in TXBUF while sending, the trace ends with its first TXI
bytes while sending and with all of it while receiving, every accumulated byte stands in RXBUF, RXEXP is the
expected length of the accumulated bytes, each receiver state says of RXN what its definition says, TIMEOUT stays
from 1 to 2^31 - 1, ELAPSED stays below it while waiting, a command is in progress only with the link open, and
RES_FLAG is 0 whenever RES_CODE is not OK. (10_state.md, 4. Program counter, 20_memory.md, Index bounds,
42_response_receiver.md, States and transitions, 42_response_receiver.md, The expected length) -/
def Obligations.StepKeepsTheEngineInvariant : Prop :=
  ∀ s t : State, EngineInv s → step s = .next t → EngineInv t

/-- From every state that meets the engine's invariant, whatever events are to come, every run of steps goes on: no
access of the engine itself is ever out of range, and no instruction or event is refused. (20_memory.md, Index
bounds) -/
def Obligations.SoundStatesNeverStop : Prop :=
  ∀ s : State, EngineInv s → SafeRun s

/-- In every state at most one of tx_valid, rx_ready and cmd_ready is high. In a state that meets the engine's
invariant and in which a response byte can be accepted, every byte of the request has been emitted: the transmit
trace ends with the TXLEN bytes TXBUF[0 .. TXLEN-1], in order. (43_field_mux_and_operations.md, Half duplex
(R155), 44_session_control.md, One command at a time (R174), 10_state.md, 4. Program counter (R24)) -/
def Obligations.OnlyOneHandshakeAtATime : Prop :=
  (∀ s : State, (txValid s && rxReady s) = false ∧ (cmdReady s && (txValid s || rxReady s)) = false) ∧
  ∀ s : State, EngineInv s → rxReady s = true → ∃ before request : List Byte, s.tx = before ++ request ∧
    request.length = s.txLen.toNat ∧ ∀ i, i < s.txLen.toNat → s.txbuf.read? i = request[i]?

/-- SEQ is 0 idle, 1 send, 2 receive; RXS is 0 to 6 in the order of its table; RES_CODE is 0 to 9 from OK to
ConnectionError; RES_CLASS is 0 to 4 from CLASS_NONE to CLASS_MALFORMED. (10_state.md, 4. Program counter (R24),
10_state.md, the result registers (R26), 10_state.md, the receiver's registers (R30), 60_exceptions.md, 1. Causes
and codes (R180)) -/
def Obligations.PortsCarryTheEncodings : Prop :=
  [Seq.idle, .send, .recv].map Seq.code = [0#2, 1#2, 2#2] ∧
  [RxState.idle, .awaitFirst, .awaitLen, .lenKnown, .complete, .timedOut, .incomplete].map RxState.code =
    [0#3, 1#3, 2#3, 3#3, 4#3, 5#3, 6#3] ∧
  [ResultCode.ok, .notOpen, .invalidArgument, .payloadTooLarge, .ioError, .timeout, .incompleteMessage,
      .unexpectedMessageType, .decodingError, .connectionError].map ResultCode.code =
    [0#4, 1#4, 2#4, 3#4, 4#4, 5#4, 6#4, 7#4, 8#4, 9#4] ∧
  [FrameClass.none, .single, .short, .rspUd, .malformed].map FrameClass.code = [0#3, 1#3, 2#3, 3#3, 4#3]

/-- In a state that meets the engine's invariant: while sending, tx_data is TXBUF[TXI], an E_TXACK appends exactly
that byte to the trace, and it leads to SEQ_RECV exactly when tx_last is high; rxb_data at every index below RXN
is that accumulated byte; the payload handed to the decoder is what rxb_data reads from index 7 on, RES_PLEN
bytes. cmd_ready is high exactly in SEQ_IDLE, tx_valid exactly in SEQ_SEND, and rx_ready exactly in SEQ_RECV with
RXS one of RX_AWAIT_FIRST, RX_AWAIT_LEN and RX_LEN_KNOWN and RXN below 261. (10_state.md, the table of ports
(R21), 43_field_mux_and_operations.md, Sending, 42_response_receiver.md, rx_ready (R127), 44_session_control.md,
Result hand-over) -/
def Obligations.PortsShowTheirBytes : Prop :=
  ∀ s : State, EngineInv s →
    (s.seq = .send → s.txbuf.read? s.txI.toNat = some (txData s) ∧
      ∃ t : State, runEvents [.txack] s = .next t ∧ t.tx = s.tx ++ [txData s] ∧ (t.seq = .recv ↔ txLast s = true)) ∧
    (∀ i : BitVec 9, i.toNat < s.rxn.toNat → s.rxbuf.read? i.toNat = some (rxbData s i)) ∧
    (deliveredPayload s).length = s.res.plen.toNat ∧
    (∀ k, k < s.res.plen.toNat → 7 + k ≤ 260 → (deliveredPayload s)[k]? = some (rxbData s (BitVec.ofNat 9 (7 + k)))) ∧
    (cmdReady s = true ↔ s.seq = .idle) ∧ (txValid s = true ↔ s.seq = .send) ∧
    (rxReady s = true ↔
      s.seq = .recv ∧ (s.rxs = .awaitFirst ∨ s.rxs = .awaitLen ∨ s.rxs = .lenKnown) ∧ s.rxn.toNat < 261)

/-- If a step changes TIMEOUT, it accepted the command word of a SETTIMEOUT and TIMEOUT is now its operand, a positive
number; or a reset came and TIMEOUT is 300. A change of link_open, a bus command, its outcome or a unit's event
never changes it. (10_state.md, TIMEOUT) -/
def Obligations.OnlySetTimeoutAndResetWriteTheTimeout : Prop :=
  ∀ s t : State, step s = .next t → t.timeout ≠ s.timeout →
    (∃ w, acceptedWord s = some w ∧ cmdOp w = 0x9#4 ∧ t.timeout = cmdTmo w ∧
      0 < (cmdTmo w).toInt) ∨
    (∃ l, nextEvent s = .reset l) ∧ t.timeout.toNat = 300

/-- If a step changes PAYLOAD, it took an E_PAYWR with an index of at most 249, or a reset; the engine itself never
writes it. No step changes POLL_MS or RX_INTEGRITY_CHECK, which R6 fixes at build time; that they stand in the
state is the model's choice, log entry 10. (20_memory.md, PAYLOAD (R51), 00_scope.md, 4. Implementation parameters
(R6)) -/
def Obligations.TheEngineNeverWritesPayload : Prop :=
  ∀ s t : State, step s = .next t →
    (t.payload ≠ s.payload →
      (∃ i v, nextEvent s = .paywr i v ∧ i.toNat ≤ 249) ∨ ∃ l, nextEvent s = .reset l) ∧
    t.cfg = s.cfg

/-- From a state that meets the invariant, a step that takes no reset leaves the trace as it was and appends bytes l
to it; byte k of l is TXBUF[TXI + k], and a step that appends anything starts in SEQ_SEND and advances TXI by the
number of bytes. (20_memory.md, 4. Ordering and synchronisation, 43_field_mux_and_operations.md, Sending) -/
def Obligations.BytesLeaveInBufferOrder : Prop :=
  ∀ s t : State, EngineInv s → step s = .next t → (∀ l, nextEvent s ≠ .reset l) →
    ∃ l : List Byte, t.tx = s.tx ++ l ∧ (∀ k, k < l.length → s.txbuf.read? (s.txI.toNat + k) = l[k]?) ∧
      (l ≠ [] → s.seq = .send ∧ t.txI.toNat = s.txI.toNat + l.length)
end

