-- ==== Sys2Proof/Laws/Decode.lean ====
section
/-! SUPPORT. The laws of the two encodings: the fields of a command word, what a command word runs, the lengths of the
frames, and that every wire row means its frame crossing the line. -/

namespace Sys2Proof.Machine

namespace Laws

/-! ### The fields of a command word (spec/30_encoding.md R81) -/

@[simp] theorem cmdOp_commandWord (op : BitVec 4) (a : Byte) (sec : SecAddr) (n : BitVec 16) (t : BitVec 32) :
    cmdOp (commandWord op a sec n t) = op := by
  refine BitVec.eq_of_getLsbD_eq fun i hi => ?_
  simp only [cmdOp, commandWord, BitVec.getLsbD_extractLsb', BitVec.getLsbD_append, hi, decide_true, Bool.true_and]
  repeat' split
  all_goals first | omega | exact congrArg _ (by omega)

@[simp] theorem cmdAddr_commandWord (op : BitVec 4) (a : Byte) (sec : SecAddr) (n : BitVec 16) (t : BitVec 32) :
    cmdAddr (commandWord op a sec n t) = a := by
  refine BitVec.eq_of_getLsbD_eq fun i hi => ?_
  simp only [cmdAddr, commandWord, BitVec.getLsbD_extractLsb', BitVec.getLsbD_append, hi, decide_true, Bool.true_and]
  repeat' split
  all_goals first | omega | exact congrArg _ (by omega)

@[simp] theorem cmdSec_commandWord (op : BitVec 4) (a : Byte) (sec : SecAddr) (n : BitVec 16) (t : BitVec 32) :
    cmdSec (commandWord op a sec n t) = sec := by
  refine BitVec.eq_of_getLsbD_eq fun i hi => ?_
  simp only [cmdSec, commandWord, BitVec.getLsbD_extractLsb', BitVec.getLsbD_append, hi, decide_true, Bool.true_and]
  repeat' split
  all_goals first | omega | exact congrArg _ (by omega)

@[simp] theorem cmdPlen_commandWord (op : BitVec 4) (a : Byte) (sec : SecAddr) (n : BitVec 16) (t : BitVec 32) :
    cmdPlen (commandWord op a sec n t) = n := by
  refine BitVec.eq_of_getLsbD_eq fun i hi => ?_
  simp only [cmdPlen, commandWord, BitVec.getLsbD_extractLsb', BitVec.getLsbD_append, hi, decide_true, Bool.true_and]
  repeat' split
  all_goals first | omega | exact congrArg _ (by omega)

@[simp] theorem cmdTmo_commandWord (op : BitVec 4) (a : Byte) (sec : SecAddr) (n : BitVec 16) (t : BitVec 32) :
    cmdTmo (commandWord op a sec n t) = t := by
  refine BitVec.eq_of_getLsbD_eq fun i hi => ?_
  simp only [cmdTmo, commandWord, BitVec.getLsbD_extractLsb', BitVec.getLsbD_append, hi, decide_true, Bool.true_and]
  repeat' split
  all_goals first | omega | exact congrArg _ (by omega)

/-- A command word is made of its five fields. -/
theorem commandWord_fields (w : CommandWord) :
    commandWord (cmdOp w) (cmdAddr w) (cmdSec w) (cmdPlen w) (cmdTmo w) = w := by
  refine BitVec.eq_of_getLsbD_eq fun i hi => ?_
  simp only [cmdOp, cmdAddr, cmdSec, cmdPlen, cmdTmo, commandWord, BitVec.getLsbD_extractLsb', BitVec.getLsbD_append]
  repeat' split
  all_goals
    rw [decide_eq_true (by omega), Bool.true_and]
    exact congrArg _ (by omega)

/-! ### What a command word runs -/

/-- What the sequencer does with an accepted command after its operands are loaded (spec/44_session_control.md R170):
a bus operation, `SETTIMEOUT`, or the error of a reserved opcode. -/
def runOf (op : BitVec 4) (tmo : BitVec 32) (s : State) : State :=
  match busOpOf op with
  | some b => startBus b s
  | none => if op = 0x9#4 then setTimeout tmo s else raise .invalidArgument s

/-- Every one of the sixteen opcodes is accepted in the same way. -/
theorem exec_commandOf (op : BitVec 4) (a : Byte) (sec : SecAddr) (n : BitVec 16) (t : BitVec 32) (s : State) :
    exec (commandOf op a sec n t) s = acceptCommand op a sec n t (runOf op t) s := by
  have all : ∀ o : BitVec 4, o = 0#4 ∨ o = 1#4 ∨ o = 2#4 ∨ o = 3#4 ∨ o = 4#4 ∨ o = 5#4 ∨ o = 6#4 ∨ o = 7#4 ∨
      o = 8#4 ∨ o = 9#4 ∨ o = 10#4 ∨ o = 11#4 ∨ o = 12#4 ∨ o = 13#4 ∨ o = 14#4 ∨ o = 15#4 := by decide
  rcases all op with h | h | h | h | h | h | h | h | h | h | h | h | h | h | h | h <;> subst h <;> rfl

/-- An accepted command word. -/
theorem exec_decodeCommand_idle {s : State} (h : s.seq = .idle) (w : CommandWord) :
    exec (decodeCommand w) s =
      .next (runOf (cmdOp w) (cmdTmo w) (loadOperands (cmdOp w) (cmdAddr w) (cmdSec w) (cmdPlen w) s)) := by
  rw [decodeCommand, exec_commandOf, acceptCommand, if_pos h]

/-! ### Frames -/

@[simp] theorem shortBytes_length (cf af cs : Byte) : (shortBytes cf af cs).length = 5 := rfl

@[simp] theorem longBytes_length (cf af ci : Byte) (p : List Byte) (cs : Byte) :
    (longBytes cf af ci p cs).length = 9 + p.length := by
  simp only [longBytes, List.length_append, List.length_cons, List.length_nil]
  omega

/-- The checksum of a byte and the bytes behind it. -/
theorem sum8_cons (b : Byte) (bs : List Byte) : sum8 (b :: bs) = b + sum8 bs := by
  have shift : ∀ (l : List Byte) (x : Byte), l.foldl (fun acc c => acc + c) x = x + sum8 l := by
    intro l
    induction l with
    | nil => simp [sum8]
    | cons c l ih =>
      intro x
      show l.foldl (fun acc c => acc + c) (x + c) = x + l.foldl (fun acc c => acc + c) (0#8 + c)
      rw [ih, ih (0#8 + c), BitVec.zero_add, BitVec.add_assoc]
  show bs.foldl (fun acc c => acc + c) (0#8 + b) = _
  rw [shift, BitVec.zero_add]

@[simp] theorem sum8_nil : sum8 [] = 0#8 := rfl

/-- Every wire row means its frame crossing the line. -/
theorem exec_wire {i : Instr} {bytes : List Byte} (h : encode i = some (.wire bytes)) (s : State) :
    exec i s = transferFrame bytes s := by
  cases i <;> simp only [encode, Option.some.injEq, Code.wire.injEq, reduceCtorEq] at h <;> subst h <;> rfl

end Laws

end Sys2Proof.Machine
end

