-- ==== Sys2Proof/Laws/State.lean ====
section
/-! SUPPORT. The small lemmas of the state updates: what each field of the state holds after a shared operation. All are
true by definition; later proofs cite them and unfold no record update. -/

namespace Sys2Proof.Machine

/-! ### `raise` -/

@[simp] theorem raise_cfg (code : ResultCode) (s : State) : (raise code s).cfg = s.cfg := rfl
@[simp] theorem raise_op (code : ResultCode) (s : State) : (raise code s).op = s.op := rfl
@[simp] theorem raise_addr (code : ResultCode) (s : State) : (raise code s).addr = s.addr := rfl
@[simp] theorem raise_sec (code : ResultCode) (s : State) : (raise code s).sec = s.sec := rfl
@[simp] theorem raise_plen (code : ResultCode) (s : State) : (raise code s).plen = s.plen := rfl
@[simp] theorem raise_seq (code : ResultCode) (s : State) : (raise code s).seq = .idle := rfl
@[simp] theorem raise_txLen (code : ResultCode) (s : State) : (raise code s).txLen = s.txLen := rfl
@[simp] theorem raise_txI (code : ResultCode) (s : State) : (raise code s).txI = s.txI := rfl
@[simp] theorem raise_res (code : ResultCode) (s : State) : (raise code s).res = { s.res with code := code, flag := false } := rfl
@[simp] theorem raise_fcb (code : ResultCode) (s : State) : (raise code s).fcb = s.fcb := rfl
@[simp] theorem raise_timeout (code : ResultCode) (s : State) : (raise code s).timeout = s.timeout := rfl
@[simp] theorem raise_rxs (code : ResultCode) (s : State) : (raise code s).rxs = s.rxs := rfl
@[simp] theorem raise_rxn (code : ResultCode) (s : State) : (raise code s).rxn = s.rxn := rfl
@[simp] theorem raise_rxexp (code : ResultCode) (s : State) : (raise code s).rxexp = s.rxexp := rfl
@[simp] theorem raise_elapsed (code : ResultCode) (s : State) : (raise code s).elapsed = s.elapsed := rfl
@[simp] theorem raise_link (code : ResultCode) (s : State) : (raise code s).link = s.link := rfl
@[simp] theorem raise_payload (code : ResultCode) (s : State) : (raise code s).payload = s.payload := rfl
@[simp] theorem raise_txbuf (code : ResultCode) (s : State) : (raise code s).txbuf = s.txbuf := rfl
@[simp] theorem raise_rxbuf (code : ResultCode) (s : State) : (raise code s).rxbuf = s.rxbuf := rfl
@[simp] theorem raise_resValid (code : ResultCode) (s : State) : (raise code s).resValid = true := rfl
@[simp] theorem raise_tickSync (code : ResultCode) (s : State) : (raise code s).tickSync = s.tickSync := rfl
@[simp] theorem raise_tx (code : ResultCode) (s : State) : (raise code s).tx = s.tx := rfl
@[simp] theorem raise_cmdPort (code : ResultCode) (s : State) : (raise code s).cmdPort = s.cmdPort := rfl
@[simp] theorem raise_rxHeld (code : ResultCode) (s : State) : (raise code s).rxHeld = s.rxHeld := rfl
@[simp] theorem raise_inbox (code : ResultCode) (s : State) : (raise code s).inbox = s.inbox := rfl
@[simp] theorem raise_unitOut (code : ResultCode) (s : State) : (raise code s).unitOut = s.unitOut := rfl
@[simp] theorem raise_draws (code : ResultCode) (s : State) : (raise code s).draws = s.draws := rfl

/-! ### `complete` -/

@[simp] theorem complete_cfg (flag : Bool) (s : State) : (complete flag s).cfg = s.cfg := rfl
@[simp] theorem complete_op (flag : Bool) (s : State) : (complete flag s).op = s.op := rfl
@[simp] theorem complete_addr (flag : Bool) (s : State) : (complete flag s).addr = s.addr := rfl
@[simp] theorem complete_sec (flag : Bool) (s : State) : (complete flag s).sec = s.sec := rfl
@[simp] theorem complete_plen (flag : Bool) (s : State) : (complete flag s).plen = s.plen := rfl
@[simp] theorem complete_seq (flag : Bool) (s : State) : (complete flag s).seq = .idle := rfl
@[simp] theorem complete_txLen (flag : Bool) (s : State) : (complete flag s).txLen = s.txLen := rfl
@[simp] theorem complete_txI (flag : Bool) (s : State) : (complete flag s).txI = s.txI := rfl
@[simp] theorem complete_res (flag : Bool) (s : State) : (complete flag s).res = { s.res with code := .ok, flag := flag } := rfl
@[simp] theorem complete_fcb (flag : Bool) (s : State) : (complete flag s).fcb = s.fcb := rfl
@[simp] theorem complete_timeout (flag : Bool) (s : State) : (complete flag s).timeout = s.timeout := rfl
@[simp] theorem complete_rxs (flag : Bool) (s : State) : (complete flag s).rxs = s.rxs := rfl
@[simp] theorem complete_rxn (flag : Bool) (s : State) : (complete flag s).rxn = s.rxn := rfl
@[simp] theorem complete_rxexp (flag : Bool) (s : State) : (complete flag s).rxexp = s.rxexp := rfl
@[simp] theorem complete_elapsed (flag : Bool) (s : State) : (complete flag s).elapsed = s.elapsed := rfl
@[simp] theorem complete_link (flag : Bool) (s : State) : (complete flag s).link = s.link := rfl
@[simp] theorem complete_payload (flag : Bool) (s : State) : (complete flag s).payload = s.payload := rfl
@[simp] theorem complete_txbuf (flag : Bool) (s : State) : (complete flag s).txbuf = s.txbuf := rfl
@[simp] theorem complete_rxbuf (flag : Bool) (s : State) : (complete flag s).rxbuf = s.rxbuf := rfl
@[simp] theorem complete_resValid (flag : Bool) (s : State) : (complete flag s).resValid = true := rfl
@[simp] theorem complete_tickSync (flag : Bool) (s : State) : (complete flag s).tickSync = s.tickSync := rfl
@[simp] theorem complete_tx (flag : Bool) (s : State) : (complete flag s).tx = s.tx := rfl
@[simp] theorem complete_cmdPort (flag : Bool) (s : State) : (complete flag s).cmdPort = s.cmdPort := rfl
@[simp] theorem complete_rxHeld (flag : Bool) (s : State) : (complete flag s).rxHeld = s.rxHeld := rfl
@[simp] theorem complete_inbox (flag : Bool) (s : State) : (complete flag s).inbox = s.inbox := rfl
@[simp] theorem complete_unitOut (flag : Bool) (s : State) : (complete flag s).unitOut = s.unitOut := rfl
@[simp] theorem complete_draws (flag : Bool) (s : State) : (complete flag s).draws = s.draws := rfl

/-! ### `loadOperands` -/

@[simp] theorem loadOperands_cfg (o : BitVec 4) (a : Byte) (sc : SecAddr) (n : BitVec 16) (s : State) : (loadOperands o a sc n s).cfg = s.cfg := rfl
@[simp] theorem loadOperands_op (o : BitVec 4) (a : Byte) (sc : SecAddr) (n : BitVec 16) (s : State) : (loadOperands o a sc n s).op = o := rfl
@[simp] theorem loadOperands_addr (o : BitVec 4) (a : Byte) (sc : SecAddr) (n : BitVec 16) (s : State) : (loadOperands o a sc n s).addr = a := rfl
@[simp] theorem loadOperands_sec (o : BitVec 4) (a : Byte) (sc : SecAddr) (n : BitVec 16) (s : State) : (loadOperands o a sc n s).sec = sc := rfl
@[simp] theorem loadOperands_plen (o : BitVec 4) (a : Byte) (sc : SecAddr) (n : BitVec 16) (s : State) : (loadOperands o a sc n s).plen = n := rfl
@[simp] theorem loadOperands_seq (o : BitVec 4) (a : Byte) (sc : SecAddr) (n : BitVec 16) (s : State) : (loadOperands o a sc n s).seq = s.seq := rfl
@[simp] theorem loadOperands_txLen (o : BitVec 4) (a : Byte) (sc : SecAddr) (n : BitVec 16) (s : State) : (loadOperands o a sc n s).txLen = s.txLen := rfl
@[simp] theorem loadOperands_txI (o : BitVec 4) (a : Byte) (sc : SecAddr) (n : BitVec 16) (s : State) : (loadOperands o a sc n s).txI = s.txI := rfl
@[simp] theorem loadOperands_res (o : BitVec 4) (a : Byte) (sc : SecAddr) (n : BitVec 16) (s : State) : (loadOperands o a sc n s).res = {} := rfl
@[simp] theorem loadOperands_fcb (o : BitVec 4) (a : Byte) (sc : SecAddr) (n : BitVec 16) (s : State) : (loadOperands o a sc n s).fcb = s.fcb := rfl
@[simp] theorem loadOperands_timeout (o : BitVec 4) (a : Byte) (sc : SecAddr) (n : BitVec 16) (s : State) : (loadOperands o a sc n s).timeout = s.timeout := rfl
@[simp] theorem loadOperands_rxs (o : BitVec 4) (a : Byte) (sc : SecAddr) (n : BitVec 16) (s : State) : (loadOperands o a sc n s).rxs = s.rxs := rfl
@[simp] theorem loadOperands_rxn (o : BitVec 4) (a : Byte) (sc : SecAddr) (n : BitVec 16) (s : State) : (loadOperands o a sc n s).rxn = s.rxn := rfl
@[simp] theorem loadOperands_rxexp (o : BitVec 4) (a : Byte) (sc : SecAddr) (n : BitVec 16) (s : State) : (loadOperands o a sc n s).rxexp = s.rxexp := rfl
@[simp] theorem loadOperands_elapsed (o : BitVec 4) (a : Byte) (sc : SecAddr) (n : BitVec 16) (s : State) : (loadOperands o a sc n s).elapsed = s.elapsed := rfl
@[simp] theorem loadOperands_link (o : BitVec 4) (a : Byte) (sc : SecAddr) (n : BitVec 16) (s : State) : (loadOperands o a sc n s).link = s.link := rfl
@[simp] theorem loadOperands_payload (o : BitVec 4) (a : Byte) (sc : SecAddr) (n : BitVec 16) (s : State) : (loadOperands o a sc n s).payload = s.payload := rfl
@[simp] theorem loadOperands_txbuf (o : BitVec 4) (a : Byte) (sc : SecAddr) (n : BitVec 16) (s : State) : (loadOperands o a sc n s).txbuf = s.txbuf := rfl
@[simp] theorem loadOperands_rxbuf (o : BitVec 4) (a : Byte) (sc : SecAddr) (n : BitVec 16) (s : State) : (loadOperands o a sc n s).rxbuf = s.rxbuf := rfl
@[simp] theorem loadOperands_resValid (o : BitVec 4) (a : Byte) (sc : SecAddr) (n : BitVec 16) (s : State) : (loadOperands o a sc n s).resValid = s.resValid := rfl
@[simp] theorem loadOperands_tickSync (o : BitVec 4) (a : Byte) (sc : SecAddr) (n : BitVec 16) (s : State) : (loadOperands o a sc n s).tickSync = s.tickSync := rfl
@[simp] theorem loadOperands_tx (o : BitVec 4) (a : Byte) (sc : SecAddr) (n : BitVec 16) (s : State) : (loadOperands o a sc n s).tx = s.tx := rfl
@[simp] theorem loadOperands_cmdPort (o : BitVec 4) (a : Byte) (sc : SecAddr) (n : BitVec 16) (s : State) : (loadOperands o a sc n s).cmdPort = s.cmdPort := rfl
@[simp] theorem loadOperands_rxHeld (o : BitVec 4) (a : Byte) (sc : SecAddr) (n : BitVec 16) (s : State) : (loadOperands o a sc n s).rxHeld = s.rxHeld := rfl
@[simp] theorem loadOperands_inbox (o : BitVec 4) (a : Byte) (sc : SecAddr) (n : BitVec 16) (s : State) : (loadOperands o a sc n s).inbox = s.inbox := rfl
@[simp] theorem loadOperands_unitOut (o : BitVec 4) (a : Byte) (sc : SecAddr) (n : BitVec 16) (s : State) : (loadOperands o a sc n s).unitOut = s.unitOut := rfl
@[simp] theorem loadOperands_draws (o : BitVec 4) (a : Byte) (sc : SecAddr) (n : BitVec 16) (s : State) : (loadOperands o a sc n s).draws = s.draws := rfl

/-! ### `loadFrame` -/

@[simp] theorem loadFrame_cfg (frame : List Byte) (s : State) : (loadFrame frame s).cfg = s.cfg := rfl
@[simp] theorem loadFrame_op (frame : List Byte) (s : State) : (loadFrame frame s).op = s.op := rfl
@[simp] theorem loadFrame_addr (frame : List Byte) (s : State) : (loadFrame frame s).addr = s.addr := rfl
@[simp] theorem loadFrame_sec (frame : List Byte) (s : State) : (loadFrame frame s).sec = s.sec := rfl
@[simp] theorem loadFrame_plen (frame : List Byte) (s : State) : (loadFrame frame s).plen = s.plen := rfl
@[simp] theorem loadFrame_seq (frame : List Byte) (s : State) : (loadFrame frame s).seq = .send := rfl
@[simp] theorem loadFrame_txLen (frame : List Byte) (s : State) : (loadFrame frame s).txLen = BitVec.ofNat 9 frame.length := rfl
@[simp] theorem loadFrame_txI (frame : List Byte) (s : State) : (loadFrame frame s).txI = 0#9 := rfl
@[simp] theorem loadFrame_res (frame : List Byte) (s : State) : (loadFrame frame s).res = s.res := rfl
@[simp] theorem loadFrame_fcb (frame : List Byte) (s : State) : (loadFrame frame s).fcb = s.fcb := rfl
@[simp] theorem loadFrame_timeout (frame : List Byte) (s : State) : (loadFrame frame s).timeout = s.timeout := rfl
@[simp] theorem loadFrame_rxs (frame : List Byte) (s : State) : (loadFrame frame s).rxs = s.rxs := rfl
@[simp] theorem loadFrame_rxn (frame : List Byte) (s : State) : (loadFrame frame s).rxn = s.rxn := rfl
@[simp] theorem loadFrame_rxexp (frame : List Byte) (s : State) : (loadFrame frame s).rxexp = s.rxexp := rfl
@[simp] theorem loadFrame_elapsed (frame : List Byte) (s : State) : (loadFrame frame s).elapsed = s.elapsed := rfl
@[simp] theorem loadFrame_link (frame : List Byte) (s : State) : (loadFrame frame s).link = s.link := rfl
@[simp] theorem loadFrame_payload (frame : List Byte) (s : State) : (loadFrame frame s).payload = s.payload := rfl
@[simp] theorem loadFrame_txbuf (frame : List Byte) (s : State) : (loadFrame frame s).txbuf = s.txbuf.writeBlock 0 frame := rfl
@[simp] theorem loadFrame_rxbuf (frame : List Byte) (s : State) : (loadFrame frame s).rxbuf = s.rxbuf := rfl
@[simp] theorem loadFrame_resValid (frame : List Byte) (s : State) : (loadFrame frame s).resValid = s.resValid := rfl
@[simp] theorem loadFrame_tickSync (frame : List Byte) (s : State) : (loadFrame frame s).tickSync = s.tickSync := rfl
@[simp] theorem loadFrame_tx (frame : List Byte) (s : State) : (loadFrame frame s).tx = s.tx := rfl
@[simp] theorem loadFrame_cmdPort (frame : List Byte) (s : State) : (loadFrame frame s).cmdPort = s.cmdPort := rfl
@[simp] theorem loadFrame_rxHeld (frame : List Byte) (s : State) : (loadFrame frame s).rxHeld = s.rxHeld := rfl
@[simp] theorem loadFrame_inbox (frame : List Byte) (s : State) : (loadFrame frame s).inbox = s.inbox := rfl
@[simp] theorem loadFrame_unitOut (frame : List Byte) (s : State) : (loadFrame frame s).unitOut = s.unitOut := rfl
@[simp] theorem loadFrame_draws (frame : List Byte) (s : State) : (loadFrame frame s).draws = s.draws := rfl

/-! ### `armReceiver` -/

@[simp] theorem armReceiver_cfg (s : State) : (armReceiver s).cfg = s.cfg := rfl
@[simp] theorem armReceiver_op (s : State) : (armReceiver s).op = s.op := rfl
@[simp] theorem armReceiver_addr (s : State) : (armReceiver s).addr = s.addr := rfl
@[simp] theorem armReceiver_sec (s : State) : (armReceiver s).sec = s.sec := rfl
@[simp] theorem armReceiver_plen (s : State) : (armReceiver s).plen = s.plen := rfl
@[simp] theorem armReceiver_seq (s : State) : (armReceiver s).seq = s.seq := rfl
@[simp] theorem armReceiver_txLen (s : State) : (armReceiver s).txLen = s.txLen := rfl
@[simp] theorem armReceiver_txI (s : State) : (armReceiver s).txI = s.txI := rfl
@[simp] theorem armReceiver_res (s : State) : (armReceiver s).res = s.res := rfl
@[simp] theorem armReceiver_fcb (s : State) : (armReceiver s).fcb = s.fcb := rfl
@[simp] theorem armReceiver_timeout (s : State) : (armReceiver s).timeout = s.timeout := rfl
@[simp] theorem armReceiver_rxs (s : State) : (armReceiver s).rxs = .awaitFirst := rfl
@[simp] theorem armReceiver_rxn (s : State) : (armReceiver s).rxn = 0#9 := rfl
@[simp] theorem armReceiver_rxexp (s : State) : (armReceiver s).rxexp = 0#9 := rfl
@[simp] theorem armReceiver_elapsed (s : State) : (armReceiver s).elapsed = 0#32 := rfl
@[simp] theorem armReceiver_link (s : State) : (armReceiver s).link = s.link := rfl
@[simp] theorem armReceiver_payload (s : State) : (armReceiver s).payload = s.payload := rfl
@[simp] theorem armReceiver_txbuf (s : State) : (armReceiver s).txbuf = s.txbuf := rfl
@[simp] theorem armReceiver_rxbuf (s : State) : (armReceiver s).rxbuf = s.rxbuf := rfl
@[simp] theorem armReceiver_resValid (s : State) : (armReceiver s).resValid = s.resValid := rfl
@[simp] theorem armReceiver_tickSync (s : State) : (armReceiver s).tickSync = true := rfl
@[simp] theorem armReceiver_tx (s : State) : (armReceiver s).tx = s.tx := rfl
@[simp] theorem armReceiver_cmdPort (s : State) : (armReceiver s).cmdPort = s.cmdPort := rfl
@[simp] theorem armReceiver_rxHeld (s : State) : (armReceiver s).rxHeld = s.rxHeld := rfl
@[simp] theorem armReceiver_inbox (s : State) : (armReceiver s).inbox = s.inbox := rfl
@[simp] theorem armReceiver_unitOut (s : State) : (armReceiver s).unitOut = s.unitOut := rfl
@[simp] theorem armReceiver_draws (s : State) : (armReceiver s).draws = s.draws := rfl

/-! ### `sendWhole` -/

@[simp] theorem sendWhole_cfg (bytes : List Byte) (s : State) : (sendWhole bytes s).cfg = s.cfg := rfl
@[simp] theorem sendWhole_op (bytes : List Byte) (s : State) : (sendWhole bytes s).op = s.op := rfl
@[simp] theorem sendWhole_addr (bytes : List Byte) (s : State) : (sendWhole bytes s).addr = s.addr := rfl
@[simp] theorem sendWhole_sec (bytes : List Byte) (s : State) : (sendWhole bytes s).sec = s.sec := rfl
@[simp] theorem sendWhole_plen (bytes : List Byte) (s : State) : (sendWhole bytes s).plen = s.plen := rfl
@[simp] theorem sendWhole_seq (bytes : List Byte) (s : State) : (sendWhole bytes s).seq = .recv := rfl
@[simp] theorem sendWhole_txLen (bytes : List Byte) (s : State) : (sendWhole bytes s).txLen = s.txLen := rfl
@[simp] theorem sendWhole_txI (bytes : List Byte) (s : State) : (sendWhole bytes s).txI = s.txLen := rfl
@[simp] theorem sendWhole_res (bytes : List Byte) (s : State) : (sendWhole bytes s).res = s.res := rfl
@[simp] theorem sendWhole_fcb (bytes : List Byte) (s : State) : (sendWhole bytes s).fcb = s.fcb := rfl
@[simp] theorem sendWhole_timeout (bytes : List Byte) (s : State) : (sendWhole bytes s).timeout = s.timeout := rfl
@[simp] theorem sendWhole_rxs (bytes : List Byte) (s : State) : (sendWhole bytes s).rxs = .awaitFirst := rfl
@[simp] theorem sendWhole_rxn (bytes : List Byte) (s : State) : (sendWhole bytes s).rxn = 0#9 := rfl
@[simp] theorem sendWhole_rxexp (bytes : List Byte) (s : State) : (sendWhole bytes s).rxexp = 0#9 := rfl
@[simp] theorem sendWhole_elapsed (bytes : List Byte) (s : State) : (sendWhole bytes s).elapsed = 0#32 := rfl
@[simp] theorem sendWhole_link (bytes : List Byte) (s : State) : (sendWhole bytes s).link = s.link := rfl
@[simp] theorem sendWhole_payload (bytes : List Byte) (s : State) : (sendWhole bytes s).payload = s.payload := rfl
@[simp] theorem sendWhole_txbuf (bytes : List Byte) (s : State) : (sendWhole bytes s).txbuf = s.txbuf := rfl
@[simp] theorem sendWhole_rxbuf (bytes : List Byte) (s : State) : (sendWhole bytes s).rxbuf = s.rxbuf := rfl
@[simp] theorem sendWhole_resValid (bytes : List Byte) (s : State) : (sendWhole bytes s).resValid = s.resValid := rfl
@[simp] theorem sendWhole_tickSync (bytes : List Byte) (s : State) : (sendWhole bytes s).tickSync = true := rfl
@[simp] theorem sendWhole_tx (bytes : List Byte) (s : State) : (sendWhole bytes s).tx = s.tx ++ bytes := rfl
@[simp] theorem sendWhole_cmdPort (bytes : List Byte) (s : State) : (sendWhole bytes s).cmdPort = s.cmdPort := rfl
@[simp] theorem sendWhole_rxHeld (bytes : List Byte) (s : State) : (sendWhole bytes s).rxHeld = s.rxHeld := rfl
@[simp] theorem sendWhole_inbox (bytes : List Byte) (s : State) : (sendWhole bytes s).inbox = s.inbox := rfl
@[simp] theorem sendWhole_unitOut (bytes : List Byte) (s : State) : (sendWhole bytes s).unitOut = s.unitOut := rfl
@[simp] theorem sendWhole_draws (bytes : List Byte) (s : State) : (sendWhole bytes s).draws = s.draws := rfl

/-! ### `storeByte` -/

@[simp] theorem storeByte_cfg (b : Byte) (s : State) : (storeByte b s).cfg = s.cfg := rfl
@[simp] theorem storeByte_op (b : Byte) (s : State) : (storeByte b s).op = s.op := rfl
@[simp] theorem storeByte_addr (b : Byte) (s : State) : (storeByte b s).addr = s.addr := rfl
@[simp] theorem storeByte_sec (b : Byte) (s : State) : (storeByte b s).sec = s.sec := rfl
@[simp] theorem storeByte_plen (b : Byte) (s : State) : (storeByte b s).plen = s.plen := rfl
@[simp] theorem storeByte_seq (b : Byte) (s : State) : (storeByte b s).seq = s.seq := rfl
@[simp] theorem storeByte_txLen (b : Byte) (s : State) : (storeByte b s).txLen = s.txLen := rfl
@[simp] theorem storeByte_txI (b : Byte) (s : State) : (storeByte b s).txI = s.txI := rfl
@[simp] theorem storeByte_res (b : Byte) (s : State) : (storeByte b s).res = s.res := rfl
@[simp] theorem storeByte_fcb (b : Byte) (s : State) : (storeByte b s).fcb = s.fcb := rfl
@[simp] theorem storeByte_timeout (b : Byte) (s : State) : (storeByte b s).timeout = s.timeout := rfl
@[simp] theorem storeByte_rxs (b : Byte) (s : State) : (storeByte b s).rxs = s.rxs := rfl
@[simp] theorem storeByte_rxn (b : Byte) (s : State) : (storeByte b s).rxn = s.rxn + 1#9 := rfl
@[simp] theorem storeByte_rxexp (b : Byte) (s : State) : (storeByte b s).rxexp = s.rxexp := rfl
@[simp] theorem storeByte_elapsed (b : Byte) (s : State) : (storeByte b s).elapsed = s.elapsed := rfl
@[simp] theorem storeByte_link (b : Byte) (s : State) : (storeByte b s).link = s.link := rfl
@[simp] theorem storeByte_payload (b : Byte) (s : State) : (storeByte b s).payload = s.payload := rfl
@[simp] theorem storeByte_txbuf (b : Byte) (s : State) : (storeByte b s).txbuf = s.txbuf := rfl
@[simp] theorem storeByte_rxbuf (b : Byte) (s : State) : (storeByte b s).rxbuf = s.rxbuf.write s.rxn.toNat b := rfl
@[simp] theorem storeByte_resValid (b : Byte) (s : State) : (storeByte b s).resValid = s.resValid := rfl
@[simp] theorem storeByte_tickSync (b : Byte) (s : State) : (storeByte b s).tickSync = s.tickSync := rfl
@[simp] theorem storeByte_tx (b : Byte) (s : State) : (storeByte b s).tx = s.tx := rfl
@[simp] theorem storeByte_cmdPort (b : Byte) (s : State) : (storeByte b s).cmdPort = s.cmdPort := rfl
@[simp] theorem storeByte_rxHeld (b : Byte) (s : State) : (storeByte b s).rxHeld = s.rxHeld := rfl
@[simp] theorem storeByte_inbox (b : Byte) (s : State) : (storeByte b s).inbox = s.inbox := rfl
@[simp] theorem storeByte_unitOut (b : Byte) (s : State) : (storeByte b s).unitOut = s.unitOut := rfl
@[simp] theorem storeByte_draws (b : Byte) (s : State) : (storeByte b s).draws = s.draws := rfl

/-! ### `setFcb` -/

@[simp] theorem setFcb_cfg (a : Byte) (v : Bool) (s : State) : (setFcb a v s).cfg = s.cfg := rfl
@[simp] theorem setFcb_op (a : Byte) (v : Bool) (s : State) : (setFcb a v s).op = s.op := rfl
@[simp] theorem setFcb_addr (a : Byte) (v : Bool) (s : State) : (setFcb a v s).addr = s.addr := rfl
@[simp] theorem setFcb_sec (a : Byte) (v : Bool) (s : State) : (setFcb a v s).sec = s.sec := rfl
@[simp] theorem setFcb_plen (a : Byte) (v : Bool) (s : State) : (setFcb a v s).plen = s.plen := rfl
@[simp] theorem setFcb_seq (a : Byte) (v : Bool) (s : State) : (setFcb a v s).seq = s.seq := rfl
@[simp] theorem setFcb_txLen (a : Byte) (v : Bool) (s : State) : (setFcb a v s).txLen = s.txLen := rfl
@[simp] theorem setFcb_txI (a : Byte) (v : Bool) (s : State) : (setFcb a v s).txI = s.txI := rfl
@[simp] theorem setFcb_res (a : Byte) (v : Bool) (s : State) : (setFcb a v s).res = s.res := rfl
@[simp] theorem setFcb_timeout (a : Byte) (v : Bool) (s : State) : (setFcb a v s).timeout = s.timeout := rfl
@[simp] theorem setFcb_rxs (a : Byte) (v : Bool) (s : State) : (setFcb a v s).rxs = s.rxs := rfl
@[simp] theorem setFcb_rxn (a : Byte) (v : Bool) (s : State) : (setFcb a v s).rxn = s.rxn := rfl
@[simp] theorem setFcb_rxexp (a : Byte) (v : Bool) (s : State) : (setFcb a v s).rxexp = s.rxexp := rfl
@[simp] theorem setFcb_elapsed (a : Byte) (v : Bool) (s : State) : (setFcb a v s).elapsed = s.elapsed := rfl
@[simp] theorem setFcb_link (a : Byte) (v : Bool) (s : State) : (setFcb a v s).link = s.link := rfl
@[simp] theorem setFcb_payload (a : Byte) (v : Bool) (s : State) : (setFcb a v s).payload = s.payload := rfl
@[simp] theorem setFcb_txbuf (a : Byte) (v : Bool) (s : State) : (setFcb a v s).txbuf = s.txbuf := rfl
@[simp] theorem setFcb_rxbuf (a : Byte) (v : Bool) (s : State) : (setFcb a v s).rxbuf = s.rxbuf := rfl
@[simp] theorem setFcb_resValid (a : Byte) (v : Bool) (s : State) : (setFcb a v s).resValid = s.resValid := rfl
@[simp] theorem setFcb_tickSync (a : Byte) (v : Bool) (s : State) : (setFcb a v s).tickSync = s.tickSync := rfl
@[simp] theorem setFcb_tx (a : Byte) (v : Bool) (s : State) : (setFcb a v s).tx = s.tx := rfl
@[simp] theorem setFcb_cmdPort (a : Byte) (v : Bool) (s : State) : (setFcb a v s).cmdPort = s.cmdPort := rfl
@[simp] theorem setFcb_rxHeld (a : Byte) (v : Bool) (s : State) : (setFcb a v s).rxHeld = s.rxHeld := rfl
@[simp] theorem setFcb_inbox (a : Byte) (v : Bool) (s : State) : (setFcb a v s).inbox = s.inbox := rfl
@[simp] theorem setFcb_unitOut (a : Byte) (v : Bool) (s : State) : (setFcb a v s).unitOut = s.unitOut := rfl
@[simp] theorem setFcb_draws (a : Byte) (v : Bool) (s : State) : (setFcb a v s).draws = s.draws := rfl

/-! ### `fcbSetAll` -/

@[simp] theorem fcbSetAll_cfg (s : State) : (fcbSetAll s).cfg = s.cfg := rfl
@[simp] theorem fcbSetAll_op (s : State) : (fcbSetAll s).op = s.op := rfl
@[simp] theorem fcbSetAll_addr (s : State) : (fcbSetAll s).addr = s.addr := rfl
@[simp] theorem fcbSetAll_sec (s : State) : (fcbSetAll s).sec = s.sec := rfl
@[simp] theorem fcbSetAll_plen (s : State) : (fcbSetAll s).plen = s.plen := rfl
@[simp] theorem fcbSetAll_seq (s : State) : (fcbSetAll s).seq = s.seq := rfl
@[simp] theorem fcbSetAll_txLen (s : State) : (fcbSetAll s).txLen = s.txLen := rfl
@[simp] theorem fcbSetAll_txI (s : State) : (fcbSetAll s).txI = s.txI := rfl
@[simp] theorem fcbSetAll_res (s : State) : (fcbSetAll s).res = s.res := rfl
@[simp] theorem fcbSetAll_fcb (s : State) : (fcbSetAll s).fcb = BitVec.allOnes 256 := rfl
@[simp] theorem fcbSetAll_timeout (s : State) : (fcbSetAll s).timeout = s.timeout := rfl
@[simp] theorem fcbSetAll_rxs (s : State) : (fcbSetAll s).rxs = s.rxs := rfl
@[simp] theorem fcbSetAll_rxn (s : State) : (fcbSetAll s).rxn = s.rxn := rfl
@[simp] theorem fcbSetAll_rxexp (s : State) : (fcbSetAll s).rxexp = s.rxexp := rfl
@[simp] theorem fcbSetAll_elapsed (s : State) : (fcbSetAll s).elapsed = s.elapsed := rfl
@[simp] theorem fcbSetAll_link (s : State) : (fcbSetAll s).link = s.link := rfl
@[simp] theorem fcbSetAll_payload (s : State) : (fcbSetAll s).payload = s.payload := rfl
@[simp] theorem fcbSetAll_txbuf (s : State) : (fcbSetAll s).txbuf = s.txbuf := rfl
@[simp] theorem fcbSetAll_rxbuf (s : State) : (fcbSetAll s).rxbuf = s.rxbuf := rfl
@[simp] theorem fcbSetAll_resValid (s : State) : (fcbSetAll s).resValid = s.resValid := rfl
@[simp] theorem fcbSetAll_tickSync (s : State) : (fcbSetAll s).tickSync = s.tickSync := rfl
@[simp] theorem fcbSetAll_tx (s : State) : (fcbSetAll s).tx = s.tx := rfl
@[simp] theorem fcbSetAll_cmdPort (s : State) : (fcbSetAll s).cmdPort = s.cmdPort := rfl
@[simp] theorem fcbSetAll_rxHeld (s : State) : (fcbSetAll s).rxHeld = s.rxHeld := rfl
@[simp] theorem fcbSetAll_inbox (s : State) : (fcbSetAll s).inbox = s.inbox := rfl
@[simp] theorem fcbSetAll_unitOut (s : State) : (fcbSetAll s).unitOut = s.unitOut := rfl
@[simp] theorem fcbSetAll_draws (s : State) : (fcbSetAll s).draws = s.draws := rfl

/-! ### `noteAddressMismatch` -/

@[simp] theorem noteAddressMismatch_cfg (s : State) : (noteAddressMismatch s).cfg = s.cfg := rfl
@[simp] theorem noteAddressMismatch_op (s : State) : (noteAddressMismatch s).op = s.op := rfl
@[simp] theorem noteAddressMismatch_addr (s : State) : (noteAddressMismatch s).addr = s.addr := rfl
@[simp] theorem noteAddressMismatch_sec (s : State) : (noteAddressMismatch s).sec = s.sec := rfl
@[simp] theorem noteAddressMismatch_plen (s : State) : (noteAddressMismatch s).plen = s.plen := rfl
@[simp] theorem noteAddressMismatch_seq (s : State) : (noteAddressMismatch s).seq = s.seq := rfl
@[simp] theorem noteAddressMismatch_txLen (s : State) : (noteAddressMismatch s).txLen = s.txLen := rfl
@[simp] theorem noteAddressMismatch_txI (s : State) : (noteAddressMismatch s).txI = s.txI := rfl
@[simp] theorem noteAddressMismatch_res (s : State) : (noteAddressMismatch s).res = { s.res with afmis := decide (s.res.af ≠ s.addr) } := rfl
@[simp] theorem noteAddressMismatch_fcb (s : State) : (noteAddressMismatch s).fcb = s.fcb := rfl
@[simp] theorem noteAddressMismatch_timeout (s : State) : (noteAddressMismatch s).timeout = s.timeout := rfl
@[simp] theorem noteAddressMismatch_rxs (s : State) : (noteAddressMismatch s).rxs = s.rxs := rfl
@[simp] theorem noteAddressMismatch_rxn (s : State) : (noteAddressMismatch s).rxn = s.rxn := rfl
@[simp] theorem noteAddressMismatch_rxexp (s : State) : (noteAddressMismatch s).rxexp = s.rxexp := rfl
@[simp] theorem noteAddressMismatch_elapsed (s : State) : (noteAddressMismatch s).elapsed = s.elapsed := rfl
@[simp] theorem noteAddressMismatch_link (s : State) : (noteAddressMismatch s).link = s.link := rfl
@[simp] theorem noteAddressMismatch_payload (s : State) : (noteAddressMismatch s).payload = s.payload := rfl
@[simp] theorem noteAddressMismatch_txbuf (s : State) : (noteAddressMismatch s).txbuf = s.txbuf := rfl
@[simp] theorem noteAddressMismatch_rxbuf (s : State) : (noteAddressMismatch s).rxbuf = s.rxbuf := rfl
@[simp] theorem noteAddressMismatch_resValid (s : State) : (noteAddressMismatch s).resValid = s.resValid := rfl
@[simp] theorem noteAddressMismatch_tickSync (s : State) : (noteAddressMismatch s).tickSync = s.tickSync := rfl
@[simp] theorem noteAddressMismatch_tx (s : State) : (noteAddressMismatch s).tx = s.tx := rfl
@[simp] theorem noteAddressMismatch_cmdPort (s : State) : (noteAddressMismatch s).cmdPort = s.cmdPort := rfl
@[simp] theorem noteAddressMismatch_rxHeld (s : State) : (noteAddressMismatch s).rxHeld = s.rxHeld := rfl
@[simp] theorem noteAddressMismatch_inbox (s : State) : (noteAddressMismatch s).inbox = s.inbox := rfl
@[simp] theorem noteAddressMismatch_unitOut (s : State) : (noteAddressMismatch s).unitOut = s.unitOut := rfl
@[simp] theorem noteAddressMismatch_draws (s : State) : (noteAddressMismatch s).draws = s.draws := rfl

/-! ### `holdCommand` -/

@[simp] theorem holdCommand_cfg (w : CommandWord) (s : State) : (holdCommand w s).cfg = s.cfg := rfl
@[simp] theorem holdCommand_op (w : CommandWord) (s : State) : (holdCommand w s).op = s.op := rfl
@[simp] theorem holdCommand_addr (w : CommandWord) (s : State) : (holdCommand w s).addr = s.addr := rfl
@[simp] theorem holdCommand_sec (w : CommandWord) (s : State) : (holdCommand w s).sec = s.sec := rfl
@[simp] theorem holdCommand_plen (w : CommandWord) (s : State) : (holdCommand w s).plen = s.plen := rfl
@[simp] theorem holdCommand_seq (w : CommandWord) (s : State) : (holdCommand w s).seq = s.seq := rfl
@[simp] theorem holdCommand_txLen (w : CommandWord) (s : State) : (holdCommand w s).txLen = s.txLen := rfl
@[simp] theorem holdCommand_txI (w : CommandWord) (s : State) : (holdCommand w s).txI = s.txI := rfl
@[simp] theorem holdCommand_res (w : CommandWord) (s : State) : (holdCommand w s).res = s.res := rfl
@[simp] theorem holdCommand_fcb (w : CommandWord) (s : State) : (holdCommand w s).fcb = s.fcb := rfl
@[simp] theorem holdCommand_timeout (w : CommandWord) (s : State) : (holdCommand w s).timeout = s.timeout := rfl
@[simp] theorem holdCommand_rxs (w : CommandWord) (s : State) : (holdCommand w s).rxs = s.rxs := rfl
@[simp] theorem holdCommand_rxn (w : CommandWord) (s : State) : (holdCommand w s).rxn = s.rxn := rfl
@[simp] theorem holdCommand_rxexp (w : CommandWord) (s : State) : (holdCommand w s).rxexp = s.rxexp := rfl
@[simp] theorem holdCommand_elapsed (w : CommandWord) (s : State) : (holdCommand w s).elapsed = s.elapsed := rfl
@[simp] theorem holdCommand_link (w : CommandWord) (s : State) : (holdCommand w s).link = s.link := rfl
@[simp] theorem holdCommand_payload (w : CommandWord) (s : State) : (holdCommand w s).payload = s.payload := rfl
@[simp] theorem holdCommand_txbuf (w : CommandWord) (s : State) : (holdCommand w s).txbuf = s.txbuf := rfl
@[simp] theorem holdCommand_rxbuf (w : CommandWord) (s : State) : (holdCommand w s).rxbuf = s.rxbuf := rfl
@[simp] theorem holdCommand_resValid (w : CommandWord) (s : State) : (holdCommand w s).resValid = s.resValid := rfl
@[simp] theorem holdCommand_tickSync (w : CommandWord) (s : State) : (holdCommand w s).tickSync = s.tickSync := rfl
@[simp] theorem holdCommand_tx (w : CommandWord) (s : State) : (holdCommand w s).tx = s.tx := rfl
@[simp] theorem holdCommand_cmdPort (w : CommandWord) (s : State) : (holdCommand w s).cmdPort = s.cmdPort ++ [w] := rfl
@[simp] theorem holdCommand_rxHeld (w : CommandWord) (s : State) : (holdCommand w s).rxHeld = s.rxHeld := rfl
@[simp] theorem holdCommand_inbox (w : CommandWord) (s : State) : (holdCommand w s).inbox = s.inbox := rfl
@[simp] theorem holdCommand_unitOut (w : CommandWord) (s : State) : (holdCommand w s).unitOut = s.unitOut := rfl
@[simp] theorem holdCommand_draws (w : CommandWord) (s : State) : (holdCommand w s).draws = s.draws := rfl

/-! ### `holdBytes` -/

@[simp] theorem holdBytes_cfg (bytes : List Byte) (s : State) : (holdBytes bytes s).cfg = s.cfg := rfl
@[simp] theorem holdBytes_op (bytes : List Byte) (s : State) : (holdBytes bytes s).op = s.op := rfl
@[simp] theorem holdBytes_addr (bytes : List Byte) (s : State) : (holdBytes bytes s).addr = s.addr := rfl
@[simp] theorem holdBytes_sec (bytes : List Byte) (s : State) : (holdBytes bytes s).sec = s.sec := rfl
@[simp] theorem holdBytes_plen (bytes : List Byte) (s : State) : (holdBytes bytes s).plen = s.plen := rfl
@[simp] theorem holdBytes_seq (bytes : List Byte) (s : State) : (holdBytes bytes s).seq = s.seq := rfl
@[simp] theorem holdBytes_txLen (bytes : List Byte) (s : State) : (holdBytes bytes s).txLen = s.txLen := rfl
@[simp] theorem holdBytes_txI (bytes : List Byte) (s : State) : (holdBytes bytes s).txI = s.txI := rfl
@[simp] theorem holdBytes_res (bytes : List Byte) (s : State) : (holdBytes bytes s).res = s.res := rfl
@[simp] theorem holdBytes_fcb (bytes : List Byte) (s : State) : (holdBytes bytes s).fcb = s.fcb := rfl
@[simp] theorem holdBytes_timeout (bytes : List Byte) (s : State) : (holdBytes bytes s).timeout = s.timeout := rfl
@[simp] theorem holdBytes_rxs (bytes : List Byte) (s : State) : (holdBytes bytes s).rxs = s.rxs := rfl
@[simp] theorem holdBytes_rxn (bytes : List Byte) (s : State) : (holdBytes bytes s).rxn = s.rxn := rfl
@[simp] theorem holdBytes_rxexp (bytes : List Byte) (s : State) : (holdBytes bytes s).rxexp = s.rxexp := rfl
@[simp] theorem holdBytes_elapsed (bytes : List Byte) (s : State) : (holdBytes bytes s).elapsed = s.elapsed := rfl
@[simp] theorem holdBytes_link (bytes : List Byte) (s : State) : (holdBytes bytes s).link = s.link := rfl
@[simp] theorem holdBytes_payload (bytes : List Byte) (s : State) : (holdBytes bytes s).payload = s.payload := rfl
@[simp] theorem holdBytes_txbuf (bytes : List Byte) (s : State) : (holdBytes bytes s).txbuf = s.txbuf := rfl
@[simp] theorem holdBytes_rxbuf (bytes : List Byte) (s : State) : (holdBytes bytes s).rxbuf = s.rxbuf := rfl
@[simp] theorem holdBytes_resValid (bytes : List Byte) (s : State) : (holdBytes bytes s).resValid = s.resValid := rfl
@[simp] theorem holdBytes_tickSync (bytes : List Byte) (s : State) : (holdBytes bytes s).tickSync = s.tickSync := rfl
@[simp] theorem holdBytes_tx (bytes : List Byte) (s : State) : (holdBytes bytes s).tx = s.tx := rfl
@[simp] theorem holdBytes_cmdPort (bytes : List Byte) (s : State) : (holdBytes bytes s).cmdPort = s.cmdPort := rfl
@[simp] theorem holdBytes_rxHeld (bytes : List Byte) (s : State) : (holdBytes bytes s).rxHeld = s.rxHeld ++ bytes := rfl
@[simp] theorem holdBytes_inbox (bytes : List Byte) (s : State) : (holdBytes bytes s).inbox = s.inbox := rfl
@[simp] theorem holdBytes_unitOut (bytes : List Byte) (s : State) : (holdBytes bytes s).unitOut = s.unitOut := rfl
@[simp] theorem holdBytes_draws (bytes : List Byte) (s : State) : (holdBytes bytes s).draws = s.draws := rfl

/-! ### `answer` -/

@[simp] theorem answer_cfg (out : UnitOut) (s : State) : (answer out s).cfg = s.cfg := rfl
@[simp] theorem answer_op (out : UnitOut) (s : State) : (answer out s).op = s.op := rfl
@[simp] theorem answer_addr (out : UnitOut) (s : State) : (answer out s).addr = s.addr := rfl
@[simp] theorem answer_sec (out : UnitOut) (s : State) : (answer out s).sec = s.sec := rfl
@[simp] theorem answer_plen (out : UnitOut) (s : State) : (answer out s).plen = s.plen := rfl
@[simp] theorem answer_seq (out : UnitOut) (s : State) : (answer out s).seq = s.seq := rfl
@[simp] theorem answer_txLen (out : UnitOut) (s : State) : (answer out s).txLen = s.txLen := rfl
@[simp] theorem answer_txI (out : UnitOut) (s : State) : (answer out s).txI = s.txI := rfl
@[simp] theorem answer_res (out : UnitOut) (s : State) : (answer out s).res = s.res := rfl
@[simp] theorem answer_fcb (out : UnitOut) (s : State) : (answer out s).fcb = s.fcb := rfl
@[simp] theorem answer_timeout (out : UnitOut) (s : State) : (answer out s).timeout = s.timeout := rfl
@[simp] theorem answer_rxs (out : UnitOut) (s : State) : (answer out s).rxs = s.rxs := rfl
@[simp] theorem answer_rxn (out : UnitOut) (s : State) : (answer out s).rxn = s.rxn := rfl
@[simp] theorem answer_rxexp (out : UnitOut) (s : State) : (answer out s).rxexp = s.rxexp := rfl
@[simp] theorem answer_elapsed (out : UnitOut) (s : State) : (answer out s).elapsed = s.elapsed := rfl
@[simp] theorem answer_link (out : UnitOut) (s : State) : (answer out s).link = s.link := rfl
@[simp] theorem answer_payload (out : UnitOut) (s : State) : (answer out s).payload = s.payload := rfl
@[simp] theorem answer_txbuf (out : UnitOut) (s : State) : (answer out s).txbuf = s.txbuf := rfl
@[simp] theorem answer_rxbuf (out : UnitOut) (s : State) : (answer out s).rxbuf = s.rxbuf := rfl
@[simp] theorem answer_resValid (out : UnitOut) (s : State) : (answer out s).resValid = s.resValid := rfl
@[simp] theorem answer_tickSync (out : UnitOut) (s : State) : (answer out s).tickSync = s.tickSync := rfl
@[simp] theorem answer_tx (out : UnitOut) (s : State) : (answer out s).tx = s.tx := rfl
@[simp] theorem answer_cmdPort (out : UnitOut) (s : State) : (answer out s).cmdPort = s.cmdPort := rfl
@[simp] theorem answer_rxHeld (out : UnitOut) (s : State) : (answer out s).rxHeld = s.rxHeld := rfl
@[simp] theorem answer_inbox (out : UnitOut) (s : State) : (answer out s).inbox = s.inbox := rfl
@[simp] theorem answer_unitOut (out : UnitOut) (s : State) : (answer out s).unitOut = out := rfl
@[simp] theorem answer_draws (out : UnitOut) (s : State) : (answer out s).draws = s.draws := rfl

/-! ### `beginStep` -/

@[simp] theorem beginStep_cfg (s : State) : (beginStep s).cfg = s.cfg := rfl
@[simp] theorem beginStep_op (s : State) : (beginStep s).op = s.op := rfl
@[simp] theorem beginStep_addr (s : State) : (beginStep s).addr = s.addr := rfl
@[simp] theorem beginStep_sec (s : State) : (beginStep s).sec = s.sec := rfl
@[simp] theorem beginStep_plen (s : State) : (beginStep s).plen = s.plen := rfl
@[simp] theorem beginStep_seq (s : State) : (beginStep s).seq = s.seq := rfl
@[simp] theorem beginStep_txLen (s : State) : (beginStep s).txLen = s.txLen := rfl
@[simp] theorem beginStep_txI (s : State) : (beginStep s).txI = s.txI := rfl
@[simp] theorem beginStep_res (s : State) : (beginStep s).res = s.res := rfl
@[simp] theorem beginStep_fcb (s : State) : (beginStep s).fcb = s.fcb := rfl
@[simp] theorem beginStep_timeout (s : State) : (beginStep s).timeout = s.timeout := rfl
@[simp] theorem beginStep_rxs (s : State) : (beginStep s).rxs = s.rxs := rfl
@[simp] theorem beginStep_rxn (s : State) : (beginStep s).rxn = s.rxn := rfl
@[simp] theorem beginStep_rxexp (s : State) : (beginStep s).rxexp = s.rxexp := rfl
@[simp] theorem beginStep_elapsed (s : State) : (beginStep s).elapsed = s.elapsed := rfl
@[simp] theorem beginStep_link (s : State) : (beginStep s).link = s.link := rfl
@[simp] theorem beginStep_payload (s : State) : (beginStep s).payload = s.payload := rfl
@[simp] theorem beginStep_txbuf (s : State) : (beginStep s).txbuf = s.txbuf := rfl
@[simp] theorem beginStep_rxbuf (s : State) : (beginStep s).rxbuf = s.rxbuf := rfl
@[simp] theorem beginStep_resValid (s : State) : (beginStep s).resValid = false := rfl
@[simp] theorem beginStep_tickSync (s : State) : (beginStep s).tickSync = false := rfl
@[simp] theorem beginStep_tx (s : State) : (beginStep s).tx = s.tx := rfl
@[simp] theorem beginStep_cmdPort (s : State) : (beginStep s).cmdPort = s.cmdPort := rfl
@[simp] theorem beginStep_rxHeld (s : State) : (beginStep s).rxHeld = s.rxHeld := rfl
@[simp] theorem beginStep_inbox (s : State) : (beginStep s).inbox = s.inbox := rfl
@[simp] theorem beginStep_unitOut (s : State) : (beginStep s).unitOut = s.unitOut := rfl
@[simp] theorem beginStep_draws (s : State) : (beginStep s).draws = s.draws + 1 := rfl

end Sys2Proof.Machine
end

