-- ==== Sys2Proof/Laws/Fcb.lean ====
section
/-! SUPPORT. The laws of the frame-count-bit array: what a latch holds after each registry function. -/

namespace Sys2Proof.Machine

namespace Laws

/-- Writing latch `a` sets it and leaves every other latch alone (spec/41_fcb_registry.md R114). -/
theorem fcbBit_setFcb (a b : Byte) (v : Bool) (s : State) :
    fcbBit (setFcb a v s) b = if b = a then v else fcbBit s b := by
  have hb : b.toNat < 256 := b.isLt
  have ha : a.toNat < 256 := a.isLt
  have key : (1#256 <<< a.toNat).getLsbD b.toNat = decide (b = a) := by
    rw [BitVec.getLsbD_shiftLeft]
    by_cases h : b = a
    · subst h
      simp [hb]
    · have hne : b.toNat ≠ a.toNat := fun e => h (BitVec.eq_of_toNat_eq e)
      by_cases hlt : b.toNat < a.toNat
      · simp [h, hlt]
      · simp [h, hlt, BitVec.getLsbD_one]
        omega
  cases v
  · show (s.fcb &&& ~~~(1#256 <<< a.toNat)).getLsbD b.toNat = _
    rw [BitVec.getLsbD_and, BitVec.getLsbD_not, key]
    by_cases h : b = a
    · rw [if_pos h, decide_eq_true h, Bool.not_true, Bool.and_false, Bool.and_false]
    · rw [if_neg h, decide_eq_false h, decide_eq_true hb]
      simp [fcbBit]
  · show (s.fcb ||| (1#256 <<< a.toNat)).getLsbD b.toNat = _
    rw [BitVec.getLsbD_or, key]
    by_cases h : b = a
    · rw [if_pos h, decide_eq_true h, Bool.or_true]
    · rw [if_neg h, decide_eq_false h, Bool.or_false]
      rfl

/-- `FCB_INIT` leaves every latch at 1 (R113). -/
theorem fcbBit_fcbSetAll (b : Byte) (s : State) : fcbBit (fcbSetAll s) b = true := by
  have hb : b.toNat < 256 := b.isLt
  show (BitVec.allOnes 256).getLsbD b.toNat = true
  rw [BitVec.getLsbD_allOnes, decide_eq_true hb]

/-- `FCB_NEXT(a)` inverts latch `a` and no other (R111, R114). -/
theorem fcbBit_fcbFlip (a b : Byte) (s : State) :
    fcbBit (fcbFlip a s) b = if b = a then !fcbBit s a else fcbBit s b := fcbBit_setFcb a b _ s

/-- `FCB_RESET(a)` sets latch `a` and no other (R112, R114). -/
theorem fcbBit_fcbSetOne (a b : Byte) (s : State) :
    fcbBit (fcbSetOne a s) b = if b = a then true else fcbBit s b := fcbBit_setFcb a b true s

/-- A latch is read from the array alone. -/
theorem fcbBit_congr {s t : State} (a : Byte) (h : t.fcb = s.fcb) : fcbBit t a = fcbBit s a := by
  simp [fcbBit, h]

end Laws

end Sys2Proof.Machine
end

