-- ==== Sys2Proof/Laws/Memory.lean ====
section
/-! SUPPORT. The laws of the byte memories: a read after a write, the canonical form kept by every memory operation,
the bounds of a block, and what `holds` says. -/

namespace Sys2Proof.Machine

namespace Laws

@[simp] theorem read?_nil (i : Nat) : Memory.read? [] i = none := rfl

/-- A read after a write of one byte. -/
theorem read?_write (m : Memory) (i j : Nat) (v : Byte) :
    (m.write i v).read? j = if j = i then some v else m.read? j := by
  induction m with
  | nil =>
    by_cases h : i = j
    · simp [Memory.write, Memory.read?, h]
    · have h' : ¬ j = i := fun e => h e.symm
      simp [Memory.write, Memory.read?, h, h']
  | cons p m ih =>
    obtain ⟨a, b⟩ := p
    simp only [Memory.write]
    by_cases h1 : i < a
    · rw [if_pos h1]
      by_cases h : i = j
      · simp [Memory.read?, h]
      · have h' : ¬ j = i := fun e => h e.symm
        simp [Memory.read?, h, h']
    · rw [if_neg h1]
      by_cases h2 : i = a
      · subst h2
        rw [if_pos rfl]
        by_cases h : i = j
        · simp [Memory.read?, h]
        · have h' : ¬ j = i := fun e => h e.symm
          simp [Memory.read?, h, h']
      · rw [if_neg h2]
        by_cases h : a = j
        · have h' : ¬ j = i := fun e => h2 (e.symm.trans h.symm)
          simp [Memory.read?, h, h']
        · simp [Memory.read?, h, ih]

@[simp] theorem read?_write_same (m : Memory) (i : Nat) (v : Byte) : (m.write i v).read? i = some v := by
  simp [read?_write]

theorem read?_write_other {m : Memory} {i j : Nat} {v : Byte} (h : j ≠ i) :
    (m.write i v).read? j = m.read? j := by simp [read?_write, h]

/-- A read after a block write: inside the block the block's byte, outside it the old contents. -/
theorem read?_writeBlock (bs : List Byte) (m : Memory) (i j : Nat) :
    (m.writeBlock i bs).read? j = if i ≤ j ∧ j < i + bs.length then bs[j - i]? else m.read? j := by
  induction bs generalizing m i with
  | nil =>
    have : ¬ (i ≤ j ∧ j < i + ([] : List Byte).length) := by simp
    rw [if_neg this]
    rfl
  | cons b bs ih =>
    simp only [Memory.writeBlock, ih, read?_write, List.length_cons]
    by_cases h0 : j = i
    · subst h0
      have h1 : ¬ (j + 1 ≤ j ∧ j < j + 1 + bs.length) := by omega
      have h2 : j ≤ j ∧ j < j + (bs.length + 1) := by omega
      simp [h2]
    · by_cases h1 : i + 1 ≤ j ∧ j < i + 1 + bs.length
      · have h2 : i ≤ j ∧ j < i + (bs.length + 1) := by omega
        have h3 : j - i = (j - (i + 1)) + 1 := by omega
        rw [if_pos h1, if_pos h2, h3, List.getElem?_cons_succ]
      · have h2 : ¬ (i ≤ j ∧ j < i + (bs.length + 1)) := by omega
        rw [if_neg h1, if_neg h2, if_neg h0]

/-- The lowest listed index of a canonical memory bounds every listed index. -/
def startsAbove (n : Nat) : Memory → Bool
  | [] => true
  | (a, _) :: _ => decide (n < a)

theorem wf_cons (a : Nat) (b : Byte) (m : Memory) :
    Memory.wf ((a, b) :: m) = (startsAbove a m && Memory.wf m) := by
  cases m with
  | nil => rfl
  | cons p m => rfl

theorem startsAbove_write {n i : Nat} {v : Byte} {m : Memory} (hm : startsAbove n m = true) (hi : n < i) :
    startsAbove n (m.write i v) = true := by
  cases m with
  | nil => simpa [Memory.write, startsAbove] using hi
  | cons p m =>
    obtain ⟨a, b⟩ := p
    simp only [Memory.write]
    split
    · simpa [startsAbove] using hi
    · split
      · simpa [startsAbove] using hi
      · exact hm

/-- Writing a byte keeps the canonical form. -/
theorem wf_write {m : Memory} (hm : m.wf = true) (i : Nat) (v : Byte) : (m.write i v).wf = true := by
  induction m with
  | nil => rfl
  | cons p m ih =>
    obtain ⟨a, b⟩ := p
    rw [wf_cons, Bool.and_eq_true] at hm
    simp only [Memory.write]
    split
    · rename_i h
      rw [wf_cons, wf_cons, hm.1, hm.2]
      simpa [startsAbove] using h
    · split
      · rename_i h
        rw [wf_cons, h, hm.1, hm.2]
        rfl
      · rename_i h1 h2
        rw [wf_cons, ih hm.2, startsAbove_write hm.1 (by omega)]
        rfl

/-- Writing a block keeps the canonical form. -/
theorem wf_writeBlock (bs : List Byte) {m : Memory} (hm : m.wf = true) (i : Nat) :
    (m.writeBlock i bs).wf = true := by
  induction bs generalizing m i with
  | nil => exact hm
  | cons b bs ih => exact ih (wf_write hm i b) (i + 1)

/-- Writing a byte below the bound keeps the bound. -/
theorem below_write {n i : Nat} {v : Byte} {m : Memory} (hm : m.below n = true) (hi : i < n) :
    (m.write i v).below n = true := by
  induction m with
  | nil => simpa [Memory.write, Memory.below] using hi
  | cons p m ih =>
    obtain ⟨a, b⟩ := p
    simp only [Memory.below, Bool.and_eq_true, decide_eq_true_eq] at hm
    simp only [Memory.write]
    split
    · simp [Memory.below, hi, hm.1, hm.2]
    · split
      · simp [Memory.below, hi, hm.2]
      · simp [Memory.below, hm.1, ih hm.2]

/-- Writing a block that ends below the bound keeps the bound. -/
theorem below_writeBlock (bs : List Byte) {n i : Nat} {m : Memory} (hm : m.below n = true)
    (hi : i + bs.length ≤ n) : (m.writeBlock i bs).below n = true := by
  induction bs generalizing m i with
  | nil => exact hm
  | cons b bs ih =>
    simp only [List.length_cons] at hi
    exact ih (below_write hm (by omega)) (by omega)

/-- `holds` says that every byte stands at its index. -/
theorem holds_iff (bs : List Byte) (m : Memory) (i : Nat) :
    m.holds i bs = true ↔ ∀ k, k < bs.length → m.read? (i + k) = bs[k]? := by
  induction bs generalizing i with
  | nil => simp [Memory.holds]
  | cons b bs ih =>
    simp only [Memory.holds, Bool.and_eq_true, beq_iff_eq, ih, List.length_cons]
    constructor
    · rintro ⟨h0, h⟩ k hk
      cases k with
      | zero => simpa using h0
      | succ k =>
        have := h k (by omega)
        rw [show i + (k + 1) = i + 1 + k by omega, this]
        simp
    · intro h
      refine ⟨by simpa using h 0 (by omega), fun k hk => ?_⟩
      have := h (k + 1) (by omega)
      rw [show i + 1 + k = i + (k + 1) by omega, this]
      simp

/-- A block just written is held. -/
theorem holds_writeBlock (bs : List Byte) (m : Memory) (i : Nat) : (m.writeBlock i bs).holds i bs = true := by
  rw [holds_iff]
  intro k hk
  rw [read?_writeBlock, if_pos (by omega)]
  congr 1
  omega

/-- A byte that stands in a buffer is what `byteAt` reads. -/
theorem byteAt_of_read? {s : State} {buf : Buffer} {i : Nat} {v : Byte} (h : (s.buffer buf).read? i = some v) :
    s.byteAt buf i = v := by simp [State.byteAt, h]

/-- `byteAt` reads the buffer and the draw number, nothing else. -/
theorem byteAt_congr {s t : State} {buf : Buffer} (i : Nat) (hb : t.buffer buf = s.buffer buf)
    (hd : t.draws = s.draws) : t.byteAt buf i = s.byteAt buf i := by simp [State.byteAt, hb, hd]

/-- The length of a `MemRead`. -/
@[simp] theorem bytesAt_length (s : State) (buf : Buffer) (i n : Nat) : (s.bytesAt buf i n).length = n := by
  simp [State.bytesAt]

end Laws

end Sys2Proof.Machine
end

