-- ==== Sys2Proof/Laws/Ops.lean ====
section
/-! SUPPORT. One lemma per shared operation that says once everything it can do; proofs cite it and do not unfold the
operation. -/

namespace Sys2Proof.Machine

namespace Laws

/-! ### Classification and finishing -/

/-- `RX_CLASSIFY` writes the result registers only. -/
theorem classify_frame (s : State) : classify s = { s with res := (classify s).res } := by
  unfold classify
  split <;> rfl

/-- `RX_CLASSIFY` leaves `RES_CODE`, `RES_FLAG` and `RES_AFMIS` alone, and its class is never `CLASS_SHORT` or
`CLASS_NONE`. -/
theorem classify_results (s : State) :
    (classify s).res.code = s.res.code ∧ (classify s).res.flag = s.res.flag ∧
      (classify s).res.afmis = s.res.afmis ∧
      ((classify s).res.cls = .single ∨ (classify s).res.cls = .rspUd ∨ (classify s).res.cls = .malformed) := by
  unfold classify latchFields
  split
  · simp
  · refine ⟨?_, ?_, ?_, ?_⟩
    · split <;> rfl
    · split <;> rfl
    · split <;> rfl
    · show (if acceptsLong s then FrameClass.rspUd else FrameClass.malformed) = _ ∨ _ = _ ∨ _ = _
      by_cases h : acceptsLong s = true <;> simp [h]

/-- How a command ends: what `raise` and `complete` do, in one shape. -/
def ended (r : Results) (s : State) : State := { s with res := r, seq := .idle, resValid := true }

theorem raise_eq_ended (code : ResultCode) (s : State) :
    raise code s = ended { s.res with code := code, flag := false } s := rfl

theorem complete_eq_ended (flag : Bool) (s : State) :
    complete flag s = ended { s.res with code := .ok, flag := flag } s := rfl

/-- The outcome table of a complete frame (R145, R157): the result registers of the command's end. -/
def completeResults (op : BusOp) (addr : Byte) (r : Results) : Results :=
  match op with
  | .poll =>
    if r.cls = .rspUd then { r with code := .ok, flag := true, afmis := decide (r.af ≠ addr) }
    else { r with code := .unexpectedMessageType, flag := false }
  | .write | .scan => { r with code := .ok, flag := r.cls == .single }
  | .select | .deselect | .selro | .rstro | .linkreset =>
    if r.cls = .single then { r with code := .ok, flag := true }
    else { r with code := .unexpectedMessageType, flag := false }

/-- What finishing a complete frame does to the frame count bits (R153). -/
def completeFcb (op : BusOp) (s : State) : State :=
  if op = .linkreset ∧ s.res.cls = .single then fcbSetOne s.addr s else s

/-- Only a link reset that was acknowledged writes a frame count bit at its end. -/
theorem completeFcb_other {op : BusOp} {s : State} (h : ¬ (op = .linkreset ∧ s.res.cls = .single)) :
    completeFcb op s = s := if_neg h

/-- Finishing a complete frame of a bus operation ends the command by the outcome table. -/
theorem finishComplete_some {s : State} {op : BusOp} (h : busOpOf s.op = some op) :
    finishComplete s = ended (completeResults op s.addr s.res) (completeFcb op s) := by
  have single : ∀ a : State, s.res = a.res →
      (if s.res.cls = .single then complete true a else raise .unexpectedMessageType a) =
        ended (if s.res.cls = .single then { s.res with code := .ok, flag := true }
          else { s.res with code := .unexpectedMessageType, flag := false }) a := by
    intro a ha
    by_cases hc : s.res.cls = .single
    · rw [if_pos hc, if_pos hc, ha]; rfl
    · rw [if_neg hc, if_neg hc, ha]; rfl
  unfold finishComplete
  rw [h]
  cases op with
  | poll =>
    rw [completeFcb_other (by simp)]
    unfold completeResults
    by_cases hc : s.res.cls = .rspUd
    · simp only [if_pos hc]; rfl
    · simp only [if_neg hc]; rfl
  | linkreset =>
    by_cases hc : s.res.cls = .single
    · rw [show completeFcb .linkreset s = fcbSetOne s.addr s from if_pos ⟨rfl, hc⟩]
      unfold completeResults
      simp only [if_pos hc]
      rfl
    · rw [completeFcb_other (fun e => hc e.2)]
      unfold completeResults
      simp only [if_neg hc]
      rfl
  | write => rw [completeFcb_other (by simp)]; rfl
  | scan => rw [completeFcb_other (by simp)]; rfl
  | select => rw [completeFcb_other (by simp)]; exact single s rfl
  | deselect => rw [completeFcb_other (by simp)]; exact single s rfl
  | selro => rw [completeFcb_other (by simp)]; exact single s rfl
  | rstro => rw [completeFcb_other (by simp)]; exact single s rfl

/-- With no bus operation in `OP` there is nothing to finish. -/
theorem finishComplete_none {s : State} (h : busOpOf s.op = none) : finishComplete s = s := by
  unfold finishComplete
  rw [h]

/-- `SCAN` is opcode 5, as `busOpOf` reads it (R80). -/
theorem op_eq_scan_iff (o : BitVec 4) : o = opcodeOf .scan ↔ busOpOf o = some .scan := by
  revert o
  decide

/-- Finishing by the timeout with no byte (R145). -/
theorem finish_timedOut {s : State} (h : s.rxs = .timedOut) :
    finish s =
      if s.op = opcodeOf .scan then ended { s.res with code := .ok, flag := false } s
      else ended { s.res with code := .timeout, flag := false } s := by
  unfold finish
  rw [h]
  rfl

/-- Finishing by the timeout with some bytes (R145). -/
theorem finish_incomplete {s : State} (h : s.rxs = .incomplete) :
    finish s = ended { s.res with code := .incompleteMessage, flag := false } s := by
  unfold finish
  rw [h]
  rfl

/-- Finishing with a complete frame (R145). -/
theorem finish_complete {s : State} (h : s.rxs = .complete) : finish s = finishComplete s := by
  unfold finish
  rw [h]

/-- Finishing does nothing before the receiver reaches a terminal state. -/
theorem finish_waits {s : State} (h : s.rxs ≠ .timedOut ∧ s.rxs ≠ .incomplete ∧ s.rxs ≠ .complete) :
    finish s = s := by
  unfold finish
  split
  · exact absurd ‹_› h.1
  · exact absurd ‹_› h.2.1
  · exact absurd ‹_› h.2.2
  all_goals rfl

/-- Everything finishing can do: it leaves every field but the result registers, `SEQ`, `res_valid` and the frame
count bits. -/
theorem finish_frame (s : State) :
    finish s = { s with
      res := (finish s).res, seq := (finish s).seq, resValid := (finish s).resValid, fcb := (finish s).fcb } := by
  obtain ⟨x, hr⟩ : ∃ x, s.rxs = x := ⟨_, rfl⟩
  cases x with
  | timedOut =>
    rw [finish_timedOut hr]
    split <;> rfl
  | incomplete => rw [finish_incomplete hr]; rfl
  | complete =>
    rw [finish_complete hr]
    cases ho : busOpOf s.op with
    | none => rw [finishComplete_none ho]
    | some op =>
      rw [finishComplete_some ho]
      unfold completeFcb
      split <;> rfl
  | idle => rw [finish_waits (by simp [hr])]
  | awaitFirst => rw [finish_waits (by simp [hr])]
  | awaitLen => rw [finish_waits (by simp [hr])]
  | lenKnown => rw [finish_waits (by simp [hr])]

/-- Finishing in a terminal receiver state with a bus operation in `OP` ends the command. -/
theorem finish_ends {s : State} (hr : s.rxs = .timedOut ∨ s.rxs = .incomplete ∨ s.rxs = .complete)
    (ho : (busOpOf s.op).isSome = true) : (finish s).seq = .idle ∧ (finish s).resValid = true := by
  rcases hr with hr | hr | hr
  · rw [finish_timedOut hr]
    split <;> exact ⟨rfl, rfl⟩
  · rw [finish_incomplete hr]
    exact ⟨rfl, rfl⟩
  · obtain ⟨op, hop⟩ := Option.isSome_iff_exists.mp ho
    rw [finish_complete hr, finishComplete_some hop]
    exact ⟨rfl, rfl⟩

/-- Finishing keeps the result registers legal. -/
theorem finish_results {s : State} (h : ResultsInv s.res) : ResultsInv (finish s).res := by
  have key : ∀ c f, c ≠ ResultCode.decodingError → c ≠ .connectionError → (f = true → c = .ok) →
      ResultsInv { s.res with code := c, flag := f } := fun c f h1 h2 h3 => ⟨h1, h2, h.noShortClass, h3⟩
  obtain ⟨x, hr⟩ : ∃ x, s.rxs = x := ⟨_, rfl⟩
  cases x with
  | timedOut =>
    rw [finish_timedOut hr]
    split
    · exact key .ok false (by simp) (by simp) (by simp)
    · exact key .timeout false (by simp) (by simp) (by simp)
  | incomplete =>
    rw [finish_incomplete hr]
    exact key .incompleteMessage false (by simp) (by simp) (by simp)
  | complete =>
    rw [finish_complete hr]
    cases ho : busOpOf s.op with
    | none => rw [finishComplete_none ho]; exact h
    | some op =>
      rw [finishComplete_some ho]
      show ResultsInv (completeResults op s.addr s.res)
      cases op <;> simp only [completeResults] <;> (try split) <;>
        first
          | exact ⟨by simp, by simp, h.noShortClass, by simp⟩
  | idle => rw [finish_waits (by simp [hr])]; exact h
  | awaitFirst => rw [finish_waits (by simp [hr])]; exact h
  | awaitLen => rw [finish_waits (by simp [hr])]; exact h
  | lenKnown => rw [finish_waits (by simp [hr])]; exact h

/-! ### Accepting a command -/

/-- A command word is accepted exactly when `SEQ = SEQ_IDLE`; otherwise the host holds it (R174). -/
theorem acceptCommand_idle {s : State} (h : s.seq = .idle) (op : BitVec 4) (a : Byte) (sec : SecAddr)
    (n : BitVec 16) (t : BitVec 32) (run : State → State) :
    acceptCommand op a sec n t run s = .next (run (loadOperands op a sec n s)) := by
  simp [acceptCommand, h]

theorem acceptCommand_busy {s : State} (h : s.seq ≠ .idle) (op : BitVec 4) (a : Byte) (sec : SecAddr)
    (n : BitVec 16) (t : BitVec 32) (run : State → State) :
    acceptCommand op a sec n t run s = .next (holdCommand (commandWord op a sec n t) s) := by
  simp [acceptCommand, h]

/-- Everything `MUX` does to the state: the POLL row inverts `FCB[ADDR]`. -/
theorem muxState_frame (op : BusOp) (s : State) : muxState op s = { s with fcb := (muxState op s).fcb } := by
  cases op <;> rfl

/-- The length of a built frame is 5, or 9 to 259 (R71, R72). -/
theorem buildFrame_length {f : FrameFields} {s : State} {frame : List Byte} (h : buildFrame f s = some frame) :
    5 ≤ frame.length ∧ frame.length ≤ 259 := by
  cases f with
  | short cf af =>
    simp only [buildFrame, Option.some.injEq] at h
    subst h
    simp [encShort, shortBytes]
  | long cf af ci src =>
    simp only [buildFrame, encLong] at h
    split at h
    · split at h
      · rename_i h2
        simp only [Option.some.injEq] at h
        subst h
        simp only [longBytes, List.length_append, List.length_cons, List.length_nil, maxPayload] at *
        omega
      · simp at h
    · simp at h

/-- Everything a bus command can do when its operands are loaded: fail with `NotOpen`, fail with `PayloadTooLarge`, or
have its frame in `TXBUF` and begin to send. -/
theorem startBus_cases (op : BusOp) (s : State) :
    (s.link = false ∧ startBus op s = raise .notOpen s) ∨
    (s.link = true ∧ buildFrame (muxFields op s) (muxState op s) = none ∧
      startBus op s = raise .payloadTooLarge (muxState op s)) ∨
    (s.link = true ∧ ∃ frame, buildFrame (muxFields op s) (muxState op s) = some frame ∧
      startBus op s = loadFrame frame (muxState op s)) := by
  unfold startBus
  cases hl : s.link with
  | false => simp
  | true =>
    cases hb : buildFrame (muxFields op s) (muxState op s) with
    | none => simp
    | some frame => simp

/-- `SETTIMEOUT` refuses a number that is not positive and otherwise writes the register (R171). -/
theorem setTimeout_cases (tmo : BitVec 32) (s : State) :
    ((tmo.msb || tmo == 0#32) = true ∧ setTimeout tmo s = raise .invalidArgument s) ∨
    ((tmo.msb || tmo == 0#32) = false ∧ setTimeout tmo s = complete true { s with timeout := tmo }) := by
  unfold setTimeout
  cases h : (tmo.msb || tmo == 0#32) <;> simp

/-! ### Receiving -/

/-- The receiver waits exactly in `SEQ_RECV` with a waiting `RXS` (R125). -/
theorem receiverWaits_iff (s : State) : receiverWaits s = true ↔ s.seq = .recv ∧ s.rxs.waiting = true := by
  simp [receiverWaits]

/-- `rx_ready` (R127). -/
theorem rxReady_iff (s : State) :
    rxReady s = true ↔ s.seq = .recv ∧ s.rxs.waiting = true ∧ s.rxn.toNat < 261 := by
  simp only [rxReady, Bool.and_eq_true, receiverWaits_iff, decide_eq_true_eq, maxFrame, and_assoc]

/-- `rx_ready` reads `SEQ`, `RXS` and `RXN` alone. -/
theorem rxReady_congr {s t : State} (h1 : t.seq = s.seq) (h2 : t.rxs = s.rxs) (h3 : t.rxn = s.rxn) :
    rxReady t = rxReady s := by simp [rxReady, receiverWaits, h1, h2, h3]

/-- Learning the length writes `RXEXP` and `RXS` only. -/
theorem learnLength_frame (b : Byte) (s : State) :
    learnLength b s = { s with rxexp := (learnLength b s).rxexp, rxs := (learnLength b s).rxs } := by
  unfold learnLength
  split <;> (try split) <;> rfl

/-- The completion test does nothing, or classifies the frame and finishes. -/
theorem checkComplete_cases (s : State) :
    (¬ (s.rxs = .lenKnown ∧ s.rxn = s.rxexp) ∧ checkComplete s = s) ∨
    ((s.rxs = .lenKnown ∧ s.rxn = s.rxexp) ∧
      checkComplete s = finish (classify { s with rxs := .complete })) := by
  unfold checkComplete
  by_cases h : s.rxs = .lenKnown ∧ s.rxn = s.rxexp
  · exact .inr ⟨h, if_pos h⟩
  · exact .inl ⟨h, if_neg h⟩

/-- Everything an accepted byte changes: the receive buffer and count, the receiver state and expected length, and, if
it completes the frame, the result registers, `SEQ`, `res_valid` and the frame count bits. -/
theorem takeByte_frame (b : Byte) (s : State) :
    takeByte b s = { s with
      rxbuf := s.rxbuf.write s.rxn.toNat b, rxn := s.rxn + 1#9, rxexp := (takeByte b s).rxexp,
      rxs := (takeByte b s).rxs, res := (takeByte b s).res, seq := (takeByte b s).seq,
      resValid := (takeByte b s).resValid, fcb := (takeByte b s).fcb } := by
  unfold takeByte
  rcases checkComplete_cases (learnLength b (storeByte b s)) with ⟨_, h⟩ | ⟨_, h⟩
  · rw [h, learnLength_frame]
    rfl
  · rw [h, finish_frame, classify_frame, learnLength_frame]
    rfl

/-- Everything a tick can do (R125). -/
theorem takeTick_cases (s : State) :
    (receiverWaits s = false ∧ takeTick s = s) ∨
    (receiverWaits s = true ∧ ¬ s.timeout ≤ s.elapsed + s.cfg.pollMs ∧
      takeTick s = { s with elapsed := s.elapsed + s.cfg.pollMs }) ∨
    (receiverWaits s = true ∧ s.timeout ≤ s.elapsed + s.cfg.pollMs ∧
      takeTick s = finish { s with
        elapsed := s.elapsed + s.cfg.pollMs, rxs := if s.rxn = 0#9 then .timedOut else .incomplete }) := by
  unfold takeTick
  cases hw : receiverWaits s with
  | false => simp
  | true =>
    by_cases h : s.timeout ≤ s.elapsed + s.cfg.pollMs
    · simp [h]
    · simp [h]

/-- A send-level failure ends the command: `SCAN` answers "a device responded", every other `IOError` (R144). -/
theorem sendFailure_cases (s : State) :
    (s.op = opcodeOf .scan ∧ sendFailure s = ended { s.res with code := .ok, flag := true } s) ∨
    (s.op ≠ opcodeOf .scan ∧ sendFailure s = ended { s.res with code := .ioError, flag := false } s) := by
  unfold sendFailure
  by_cases h : s.op = opcodeOf .scan
  · exact .inl ⟨h, by rw [if_pos h]; rfl⟩
  · exact .inr ⟨h, by rw [if_neg h]; rfl⟩

/-- Everything `E_TXACK` can do (R143). -/
theorem takeAck_cases (s : State) :
    (s.seq ≠ .send ∧ takeAck s = .next s) ∨
    (s.seq = .send ∧ ¬ s.txI.toNat < maxFrame ∧ takeAck s = .fault (.noSuchIndex .txbuf s.txI.toNat)) ∨
    (s.seq = .send ∧ s.txI.toNat < maxFrame ∧ s.txI + 1#9 ≠ s.txLen ∧
      takeAck s = .next { s with tx := s.tx ++ [s.byteAt .txbuf s.txI.toNat], txI := s.txI + 1#9 }) ∨
    (s.seq = .send ∧ s.txI.toNat < maxFrame ∧ s.txI + 1#9 = s.txLen ∧
      takeAck s = .next (sendWhole [s.byteAt .txbuf s.txI.toNat] s)) := by
  unfold takeAck
  by_cases h1 : s.seq = .send
  · by_cases h2 : s.txI.toNat < maxFrame
    · by_cases h3 : s.txI + 1#9 = s.txLen
      · refine .inr (.inr (.inr ⟨h1, h2, h3, ?_⟩))
        simp [h1, h2, h3, sendWhole]
      · exact .inr (.inr (.inl ⟨h1, h2, h3, by simp [h1, h2, h3]⟩))
    · exact .inr (.inl ⟨h1, h2, by simp [h1, h2]⟩)
  · exact .inl ⟨h1, by simp [h1]⟩

/-- What it means that the engine offers a frame. -/
theorem offersFrame_iff (bytes : List Byte) (s : State) :
    offersFrame bytes s = true ↔
      s.seq = .send ∧ s.txI = 0#9 ∧ s.txLen.toNat = bytes.length ∧ bytes ≠ [] ∧ bytes.length ≤ 261 ∧
        s.txbuf.holds 0 bytes = true := by
  simp only [offersFrame, Bool.and_eq_true, beq_iff_eq, bne_iff_ne, decide_eq_true_eq, maxFrame, and_assoc]

/-- An accepted byte leads the run of the receiver on; the first byte that is not accepted and all behind it stay with
the transport. -/
theorem feed_cons_ready {s : State} (b : Byte) (bs : List Byte) (h : rxReady s = true) :
    feed (b :: bs) s = feed bs (takeByte b s) := by simp [feed, h]

theorem feed_blocked {s : State} (bs : List Byte) (h : rxReady s = false) : feed bs s = holdBytes bs s := by
  cases bs with
  | nil => simp [feed, holdBytes]
  | cons b bs => simp [feed, h]

/-- A property that every accepted byte and every held byte keeps is kept by a whole run of bytes. -/
theorem feed_induction {P : State → Prop} (hb : ∀ b s, rxReady s = true → P s → P (takeByte b s))
    (hh : ∀ bs s, P s → P (holdBytes bs s)) (bs : List Byte) (s : State) (h : P s) : P (feed bs s) := by
  induction bs generalizing s with
  | nil => exact h
  | cons b bs ih =>
    unfold feed
    split
    · rename_i hr
      exact ih _ (hb b s hr h)
    · exact hh _ s h

/-! ### The events -/

/-- Everything the loss of the link does to a command in progress (R156). -/
theorem linkLost_cases (s : State) :
    (s.seq = .idle ∧ linkLost s = s) ∨ (s.seq = .send ∧ linkLost s = sendFailure s) ∨
    (s.seq = .recv ∧ linkLost s = ended { s.res with code := .ioError, flag := false } s) := by
  unfold linkLost
  cases h : s.seq <;> simp [raise_eq_ended]

/-- Everything `E_LINK(b)` can do (R173). -/
theorem onLink_cases (level : Bool) (s : State) :
    (level = s.link ∧ onLink level s = .next s) ∨
    (level = true ∧ s.link = false ∧ onLink level s = .next (fcbSetAll { s with link := true })) ∨
    (level = false ∧ s.link = true ∧ onLink level s = .next (linkLost { s with link := false })) := by
  unfold onLink
  cases level <;> cases h : s.link <;> simp

end Laws

end Sys2Proof.Machine
end

