-- ==== Sys2Proof/Laws/PerInstr.lean ====
section
/-! SUPPORT. The per-instruction family `EncodedForm`: what the encoding of an instruction looks like
(spec/30_encoding.md R70 to R72, R79, R81, R88). -/

namespace Sys2Proof.Laws.EncodedForm

/-- One of the three shapes of a frame on the line: a single `E5`; five bytes from `10` to `16`; 9 to 261 bytes from
`68` to `16`. -/
def FrameShape (bytes : List Byte) : Prop :=
  bytes = [0xE5#8] ∨
  (bytes.length = 5 ∧ bytes.head? = some 0x10#8 ∧ bytes.getLast? = some 0x16#8) ∨
  (9 ≤ bytes.length ∧ bytes.length ≤ 261 ∧ bytes.head? = some 0x68#8 ∧ bytes.getLast? = some 0x16#8)

/-- A well-formed instruction on the line has one of the three shapes, and a command word is well formed whatever its
operands are. -/
def Statement (i : Instr) : Prop :=
  (∀ bytes, WellFormed i = true → encode i = some (.wire bytes) → FrameShape bytes) ∧
  (∀ w, encode i = some (.command w) → WellFormed i = true)

/-- The shape of five bytes. -/
theorem short_shape (cf af cs : Byte) : FrameShape (Machine.shortBytes cf af cs) := .inr (.inl ⟨rfl, rfl, rfl⟩)

/-- The shape of a long frame with at most 252 payload bytes. -/
theorem long_shape (cf af ci : Byte) (p : List Byte) (cs : Byte) (h : p.length ≤ 252) :
    FrameShape (Machine.longBytes cf af ci p cs) := by
  refine .inr (.inr ⟨?_, ?_, rfl, ?_⟩)
  · rw [Machine.Laws.longBytes_length]; omega
  · rw [Machine.Laws.longBytes_length]; omega
  · rw [Machine.longBytes, List.getLast?_append]
    rfl

/-- The statement of a row on the line. -/
theorem of_wire {i : Instr} {b : List Byte} (h : encode i = some (.wire b))
    (hs : WellFormed i = true → FrameShape b) : Statement i := by
  refine ⟨fun bytes hw hb => ?_, fun w hc => ?_⟩
  · rw [h] at hb
    cases hb
    exact hs hw
  · rw [h] at hc
    cases hc

/-- The statement of a command. -/
theorem of_command {i : Instr} {w : CommandWord} (h : encode i = some (.command w)) (hw : WellFormed i = true) :
    Statement i := by
  refine ⟨fun bytes _ hb => ?_, fun _ _ => hw⟩
  rw [h] at hb
  cases hb

/-- The statement of a unit function: it has no encoding. -/
theorem of_unit {i : Instr} (h : encode i = none) : Statement i := by
  refine ⟨fun bytes _ hb => ?_, fun w hc => ?_⟩
  · rw [h] at hb
    cases hb
  · rw [h] at hc
    cases hc

theorem singleCharacter : Statement .singleCharacter := of_wire rfl fun _ => .inl rfl

theorem shortFrame (cf af cs : Byte) : Statement (.shortFrame cf af cs) := of_wire rfl fun _ => short_shape _ _ _

theorem longFrame (cf af ci : Byte) (payload : List Byte) (cs : Byte) :
    Statement (.longFrame cf af ci payload cs) := by
  refine of_wire rfl fun h => long_shape _ _ _ _ _ ?_
  simp only [WellFormed, Bool.and_eq_true, decide_eq_true_eq] at h
  exact h.1.2

theorem reqUd2Fcb1 (af cs : Byte) : Statement (.reqUd2Fcb1 af cs) := of_wire rfl fun _ => short_shape _ _ _

theorem reqUd2Fcb0 (af cs : Byte) : Statement (.reqUd2Fcb0 af cs) := of_wire rfl fun _ => short_shape _ _ _

theorem sndNke (af cs : Byte) : Statement (.sndNke af cs) := of_wire rfl fun _ => short_shape _ _ _

theorem sndUdWrite (af : Byte) (payload : List Byte) (cs : Byte) : Statement (.sndUdWrite af payload cs) := by
  refine of_wire rfl fun h => long_shape _ _ _ _ _ ?_
  simp only [WellFormed, Bool.and_eq_true, decide_eq_true_eq, maxPayload] at h
  omega

theorem sndUdReadoutSelection (af : Byte) (payload : List Byte) (cs : Byte) : Statement (.sndUdReadoutSelection af payload cs) := by
  refine of_wire rfl fun h => long_shape _ _ _ _ _ ?_
  simp only [WellFormed, Bool.and_eq_true, decide_eq_true_eq, maxPayload] at h
  omega

theorem sndUdReadoutReset (af : Byte) (payload : List Byte) (cs : Byte) : Statement (.sndUdReadoutReset af payload cs) := by
  refine of_wire rfl fun h => long_shape _ _ _ _ _ ?_
  simp only [WellFormed, Bool.and_eq_true, decide_eq_true_eq, maxPayload] at h
  omega

theorem sndUdSelect (payload : List Byte) (cs : Byte) : Statement (.sndUdSelect payload cs) := by
  refine of_wire rfl fun h => long_shape _ _ _ _ _ ?_
  simp only [WellFormed, Bool.and_eq_true, beq_iff_eq] at h
  omega

theorem sndUdDeselect (payload : List Byte) (cs : Byte) : Statement (.sndUdDeselect payload cs) := by
  refine of_wire rfl fun h => long_shape _ _ _ _ _ ?_
  simp only [WellFormed, Bool.and_eq_true, beq_iff_eq] at h
  omega

theorem poll (addr : Byte) (sec : SecAddr) (plen : BitVec 16) (tmo : BitVec 32) :
    Statement (.poll addr sec plen tmo) := of_command rfl rfl

theorem write (addr : Byte) (sec : SecAddr) (plen : BitVec 16) (tmo : BitVec 32) :
    Statement (.write addr sec plen tmo) := of_command rfl rfl

theorem select (addr : Byte) (sec : SecAddr) (plen : BitVec 16) (tmo : BitVec 32) :
    Statement (.select addr sec plen tmo) := of_command rfl rfl

theorem deselect (addr : Byte) (sec : SecAddr) (plen : BitVec 16) (tmo : BitVec 32) :
    Statement (.deselect addr sec plen tmo) := of_command rfl rfl

theorem scan (addr : Byte) (sec : SecAddr) (plen : BitVec 16) (tmo : BitVec 32) :
    Statement (.scan addr sec plen tmo) := of_command rfl rfl

theorem selro (addr : Byte) (sec : SecAddr) (plen : BitVec 16) (tmo : BitVec 32) :
    Statement (.selro addr sec plen tmo) := of_command rfl rfl

theorem rstro (addr : Byte) (sec : SecAddr) (plen : BitVec 16) (tmo : BitVec 32) :
    Statement (.rstro addr sec plen tmo) := of_command rfl rfl

theorem linkreset (addr : Byte) (sec : SecAddr) (plen : BitVec 16) (tmo : BitVec 32) :
    Statement (.linkreset addr sec plen tmo) := of_command rfl rfl

theorem settimeout (addr : Byte) (sec : SecAddr) (plen : BitVec 16) (tmo : BitVec 32) :
    Statement (.settimeout addr sec plen tmo) := of_command rfl rfl

theorem reserved0 (addr : Byte) (sec : SecAddr) (plen : BitVec 16) (tmo : BitVec 32) :
    Statement (.reserved0 addr sec plen tmo) := of_command rfl rfl

theorem reservedA (addr : Byte) (sec : SecAddr) (plen : BitVec 16) (tmo : BitVec 32) :
    Statement (.reservedA addr sec plen tmo) := of_command rfl rfl

theorem reservedB (addr : Byte) (sec : SecAddr) (plen : BitVec 16) (tmo : BitVec 32) :
    Statement (.reservedB addr sec plen tmo) := of_command rfl rfl

theorem reservedC (addr : Byte) (sec : SecAddr) (plen : BitVec 16) (tmo : BitVec 32) :
    Statement (.reservedC addr sec plen tmo) := of_command rfl rfl

theorem reservedD (addr : Byte) (sec : SecAddr) (plen : BitVec 16) (tmo : BitVec 32) :
    Statement (.reservedD addr sec plen tmo) := of_command rfl rfl

theorem reservedE (addr : Byte) (sec : SecAddr) (plen : BitVec 16) (tmo : BitVec 32) :
    Statement (.reservedE addr sec plen tmo) := of_command rfl rfl

theorem reservedF (addr : Byte) (sec : SecAddr) (plen : BitVec 16) (tmo : BitVec 32) :
    Statement (.reservedF addr sec plen tmo) := of_command rfl rfl

theorem checksum (bytes : List Byte) : Statement (.checksum bytes) := of_unit rfl

theorem encSingle : Statement .encSingle := of_unit rfl

theorem encShort (address controlField : Int) : Statement (.encShort address controlField) := of_unit rfl

theorem encLong (address controlField ci : Byte) (payload : List Byte) : Statement (.encLong address controlField ci payload) := of_unit rfl

theorem fcbNext (a : Byte) : Statement (.fcbNext a) := of_unit rfl

theorem fcbReset (a : Byte) : Statement (.fcbReset a) := of_unit rfl

theorem fcbInit : Statement .fcbInit := of_unit rfl

theorem rxArm : Statement .rxArm := of_unit rfl

theorem rxByte (b : Byte) : Statement (.rxByte b) := of_unit rfl

theorem rxTick : Statement .rxTick := of_unit rfl

theorem rxClassify : Statement .rxClassify := of_unit rfl

theorem mux (op : BusOp) : Statement (.mux op) := of_unit rfl

end Sys2Proof.Laws.EncodedForm
end

