-- ==== Sys2Proof/Laws/Step.lean ====
section
/-! SUPPORT. What one step can do, said once: it takes one event on the state with its pulses low, and what the offering of a held
byte or command word does. -/

namespace Sys2Proof.Machine

namespace Laws

/-- The handshakes are the same after the pulses have fallen. -/
@[simp] theorem rxReady_beginStep (s : State) : rxReady (beginStep s) = rxReady s := rfl
@[simp] theorem cmdReady_beginStep (s : State) : cmdReady (beginStep s) = cmdReady s := rfl
@[simp] theorem nextEvent_beginStep (s : State) : nextEvent (beginStep s) = nextEvent s := rfl

/-- `cmd_ready` (spec/44_session_control.md R174). -/
theorem cmdReady_iff (s : State) : cmdReady s = true ↔ s.seq = .idle := by simp [cmdReady]

/-- The state on which the next step takes its event: the pulses low, a fresh draw, and the event taken from the events
to come. -/
def stepBase (s : State) : State :=
  { s with resValid := false, tickSync := false, draws := s.draws + 1, inbox := s.inbox.tail }

/-- Everything a step does: its event, on the base state. -/
theorem step_eq (s : State) : step s = onEvent (nextEvent s) (stepBase s) := rfl

/-- With an event to come, that event is taken. -/
theorem nextEvent_cons {s : State} {e : Event} {es : List Event} (h : s.inbox = e :: es) : nextEvent s = e := by
  unfold nextEvent
  rw [h]

/-- With none to come, what is held outside is offered. -/
theorem nextEvent_nil {s : State} (h : s.inbox = []) :
    nextEvent s = if rxReady s then .offerByte else .offerCommand := by
  unfold nextEvent
  rw [h]

/-- A byte and a command word are never taken in the same state. -/
theorem not_rxReady_of_idle {s : State} (h : s.seq = .idle) : rxReady s = false := by simp [rxReady, receiverWaits, h]

/-- Everything the offering of a held byte does (R127). -/
theorem takeHeldByte_cases (s : State) :
    ((rxReady s = false ∨ s.rxHeld = []) ∧ takeHeldByte s = .next s) ∨
    (rxReady s = true ∧ ∃ b bs, s.rxHeld = b :: bs ∧ takeHeldByte s = .next (takeByte b { s with rxHeld := bs })) := by
  unfold takeHeldByte
  cases hr : rxReady s with
  | false => exact .inl ⟨.inl rfl, rfl⟩
  | true =>
    cases hb : s.rxHeld with
    | nil => exact .inl ⟨.inr rfl, rfl⟩
    | cons b bs =>
      refine .inr ⟨rfl, b, bs, rfl, ?_⟩
      show Host.Outcome.next (if rxReady s then takeByte b { s with rxHeld := bs } else _) = _
      rw [hr]
      rfl

/-- Everything the offering of a held command word does (R174). -/
theorem takeHeldCommand_cases (s : State) :
    ((s.seq ≠ .idle ∨ s.cmdPort = []) ∧ takeHeldCommand s = .next s) ∨
    (s.seq = .idle ∧ ∃ w ws, s.cmdPort = w :: ws ∧ takeHeldCommand s =
      .next (runOf (cmdOp w) (cmdTmo w)
        (loadOperands (cmdOp w) (cmdAddr w) (cmdSec w) (cmdPlen w) { s with cmdPort := ws }))) := by
  unfold takeHeldCommand
  by_cases hr : s.seq = .idle
  · rw [if_pos ((cmdReady_iff s).mpr hr)]
    cases hb : s.cmdPort with
    | nil => exact .inl ⟨.inr rfl, rfl⟩
    | cons w ws =>
      refine .inr ⟨hr, w, ws, rfl, ?_⟩
      exact exec_decodeCommand_idle (s := { s with cmdPort := ws }) hr w
  · rw [if_neg (fun h => hr ((cmdReady_iff s).mp h))]
    exact .inl ⟨.inl hr, rfl⟩

/-- With no event to come and nothing held that could be taken, a step lowers the pulses and draws anew. -/
theorem step_waits {s : State} (hi : s.inbox = []) (hb : rxReady s = true → s.rxHeld = [])
    (hc : s.seq = .idle → s.cmdPort = []) : step s = .next (stepBase s) := by
  rw [step_eq, nextEvent_nil hi]
  cases hr : rxReady s with
  | true =>
    show takeHeldByte (stepBase s) = _
    rcases takeHeldByte_cases (stepBase s) with ⟨_, h⟩ | ⟨_, b, bs, h, _⟩
    · exact h
    · exact absurd ((hb hr).symm.trans h) (by simp)
  | false =>
    show takeHeldCommand (stepBase s) = _
    rcases takeHeldCommand_cases (stepBase s) with ⟨_, h⟩ | ⟨hs, w, ws, h, _⟩
    · exact h
    · exact absurd ((hc hs).symm.trans h) (by simp)

/-- A frame on the line crosses it, whether it is a row of the table or not. -/
theorem onFrame_error {bytes : List Byte} {r : DecodeError} (h : decodeWire bytes = .error r) (s : State) :
    onFrame bytes s = transferFrame bytes s := by
  unfold onFrame
  rw [h]

/-- The reset memory has the canonical form. -/
theorem reset_memory_wf (buf : Buffer) : (State.reset.buffer buf).wf = true := by cases buf <;> rfl

end Laws

end Sys2Proof.Machine
end

