-- ==== Sys2Proof/Tests/Slice0.lean ====
section
/-! SUPPORT. The model's own tests: ill-formed terms refused, words of the spec decoded, one step of each instruction on
values of spec/95_test_vectors.md, and the witnesses of the statements. -/

namespace Sys2Proof.Tests

open Sys2Proof Sys2Proof.Machine

/-! ### Helpers -/

/-- The next state of an answer, if it is one. -/
def nextOf : Answer → Option State
  | .next t => some t
  | .fault _ => none
  | .refused _ => none

/-- A property of the next state. -/
def after (a : Answer) (p : State → Bool) : Bool :=
  match a with
  | .next t => p t
  | .fault _ => false
  | .refused _ => false

/-- A buffer that holds these bytes from index 0. -/
def mem (bytes : List Byte) : Memory := Memory.writeBlock [] 0 bytes

/-- Waiting for the response to an operation, these bytes received, in this receiver state. -/
def receiving (op : BitVec 4) (rxs : RxState) (rxexp : BitVec 9) (bytes : List Byte) : State :=
  { State.reset with
    seq := .recv, op := op, addr := 0x11#8, rxs := rxs, rxn := BitVec.ofNat 9 bytes.length, rxexp := rxexp,
    rxbuf := mem bytes }

/-- Just armed for an operation. -/
def armed (op : BitVec 4) : State := receiving op .awaitFirst 0#9 []

/-- Sending a frame of an operation, `k` bytes of it gone. -/
def sending (op : BitVec 4) (frame : List Byte) (k : BitVec 9) : State :=
  { State.reset with
    seq := .send, op := op, addr := 0x11#8, txbuf := mem frame, txLen := BitVec.ofNat 9 frame.length, txI := k,
    tx := frame.take k.toNat }

/-- The frame of `POLL 17` (S8). -/
def poll17 : List Byte := [0x10#8, 0x7B#8, 0x11#8, 0x8C#8, 0x16#8]

/-- The response of 14 bytes of S5. -/
def rsp : List Byte :=
  [0x68#8, 0x08#8, 0x08#8, 0x68#8, 0x08#8, 0x11#8, 0x72#8, 0x11#8, 0x22#8, 0x33#8, 0x44#8, 0x55#8, 0x8A#8, 0x16#8]

/-- The result registers after a frame with the fields `08 11 72` and five payload bytes. -/
def results (flag : Bool) (cls : FrameClass) (integ : BitVec 5) : Results :=
  { flag := flag, cls := cls, cf := 0x08#8, af := 0x11#8, ci := 0x72#8, plen := 5#8, integ := integ }

/-- The secondary address `01 02 03 04 05 06 07 08` in wire order. -/
def sec18 : SecAddr := 0x0807060504030201#64

/-- Its bytes. -/
def bytes18 : List Byte := [1#8, 2#8, 3#8, 4#8, 5#8, 6#8, 7#8, 8#8]

/-! ### WellFormed refuses an ill-formed term, one for each check -/

theorem test_illformed_shortFrame_checksum : WellFormed (.shortFrame 0x08#8 0x11#8 0x1A#8) = false := by decide

theorem test_illformed_shortFrame_own_row : WellFormed (.shortFrame 0x7B#8 0x11#8 0x8C#8) = false := by decide

theorem test_illformed_longFrame_checksum :
    WellFormed (.longFrame 0x08#8 0x11#8 0x72#8 [] 0x8C#8) = false := by decide

theorem test_illformed_longFrame_own_row : WellFormed (.longFrame 0x73#8 0x01#8 0x51#8 [] 0xC5#8) = false := by decide

theorem test_illformed_reqUd2Fcb1 : WellFormed (.reqUd2Fcb1 0x11#8 0x8D#8) = false := by decide

theorem test_illformed_reqUd2Fcb0 : WellFormed (.reqUd2Fcb0 0x11#8 0x76#8) = false := by decide

theorem test_illformed_sndNke : WellFormed (.sndNke 0x03#8 0x44#8) = false := by decide

theorem test_illformed_sndUdWrite_checksum :
    WellFormed (.sndUdWrite 0x01#8 [0x01#8, 0x7A#8, 0x02#8] 0x43#8) = false := by decide

theorem test_illformed_sndUdSelect_checksum : WellFormed (.sndUdSelect bytes18 0xC7#8) = false := by decide

theorem test_illformed_sndUdSelect_length : WellFormed (.sndUdSelect [] 0xA2#8) = false := by decide

theorem test_illformed_sndUdDeselect_checksum : WellFormed (.sndUdDeselect bytes18 0xC6#8) = false := by decide

theorem test_illformed_sndUdDeselect_length : WellFormed (.sndUdDeselect [] 0xA6#8) = false := by decide

theorem test_illformed_sndUdReadoutSelection_checksum :
    WellFormed (.sndUdReadoutSelection 0x01#8 [0x08#8, 0x13#8] 0xC1#8) = false := by decide

theorem test_illformed_sndUdReadoutReset_checksum :
    WellFormed (.sndUdReadoutReset 0x01#8 [] 0xA5#8) = false := by decide

theorem test_illformed_longFrame_length :
    WellFormed (.longFrame 0x08#8 0x11#8 0x72#8 (List.replicate 253 0#8) 0x8B#8) = false := by
  rw [WellFormed, List.length_replicate, decide_eq_false (by decide), Bool.and_false, Bool.false_and]

theorem test_illformed_sndUdWrite_length :
    WellFormed (.sndUdWrite 0x01#8 (List.replicate 251 0#8) 0xC5#8) = false := by
  rw [WellFormed, List.length_replicate]
  exact Bool.and_false _

theorem test_illformed_sndUdReadoutSelection_length :
    WellFormed (.sndUdReadoutSelection 0x01#8 (List.replicate 251 0#8) 0xA5#8) = false := by
  rw [WellFormed, List.length_replicate]
  exact Bool.and_false _

theorem test_illformed_sndUdReadoutReset_length :
    WellFormed (.sndUdReadoutReset 0x01#8 (List.replicate 251 0#8) 0xA4#8) = false := by
  rw [WellFormed, List.length_replicate]
  exact Bool.and_false _

theorem test_illformed_checksum_length : WellFormed (.checksum (List.replicate 254 0#8)) = false := by
  rw [WellFormed, List.length_replicate]
  rfl

theorem test_illformed_encLong_length :
    WellFormed (.encLong 0x01#8 0x73#8 0x51#8 (List.replicate 65536 0#8)) = false := by
  rw [WellFormed, List.length_replicate]
  rfl

/-! ### Decoding words written out from the encodings (spec/30_encoding.md R70 to R72, R76, R77, R80, R81) -/

theorem test_decode_singleCharacter :
    decodeWire [0xE5#8] =
      .ok (.singleCharacter) := by rfl

theorem test_decode_shortFrame :
    decodeWire [0x10#8, 0x08#8, 0x11#8, 0x19#8, 0x16#8] =
      .ok (.shortFrame 0x08#8 0x11#8 0x19#8) := by rfl

theorem test_decode_longFrame :
    decodeWire [0x68#8, 0x03#8, 0x03#8, 0x68#8, 0x08#8, 0x11#8, 0x72#8, 0x8B#8, 0x16#8] =
      .ok (.longFrame 0x08#8 0x11#8 0x72#8 [] 0x8B#8) := by rfl

theorem test_decode_reqUd2Fcb1 :
    decodeWire [0x10#8, 0x7B#8, 0x11#8, 0x8C#8, 0x16#8] =
      .ok (.reqUd2Fcb1 0x11#8 0x8C#8) := by rfl

theorem test_decode_reqUd2Fcb0 :
    decodeWire [0x10#8, 0x5B#8, 0x11#8, 0x6C#8, 0x16#8] =
      .ok (.reqUd2Fcb0 0x11#8 0x6C#8) := by rfl

theorem test_decode_sndNke :
    decodeWire [0x10#8, 0x40#8, 0x03#8, 0x43#8, 0x16#8] =
      .ok (.sndNke 0x03#8 0x43#8) := by rfl

theorem test_decode_sndUdWrite :
    decodeWire [0x68#8, 0x06#8, 0x06#8, 0x68#8, 0x73#8, 0x01#8, 0x51#8, 0x01#8, 0x7A#8, 0x02#8, 0x42#8, 0x16#8] =
      .ok (.sndUdWrite 0x01#8 [0x01#8, 0x7A#8, 0x02#8] 0x42#8) := by rfl

theorem test_decode_sndUdSelect :
    decodeWire [0x68#8, 0x0B#8, 0x0B#8, 0x68#8, 0x53#8, 0xFD#8, 0x52#8, 0x01#8, 0x02#8, 0x03#8, 0x04#8, 0x05#8,
      0x06#8, 0x07#8, 0x08#8, 0xC6#8, 0x16#8] =
      .ok (.sndUdSelect bytes18 0xC6#8) := by rfl

theorem test_decode_sndUdDeselect :
    decodeWire [0x68#8, 0x0B#8, 0x0B#8, 0x68#8, 0x53#8, 0xFD#8, 0x56#8, 0x01#8, 0x02#8, 0x03#8, 0x04#8, 0x05#8,
      0x06#8, 0x07#8, 0x08#8, 0xCA#8, 0x16#8] =
      .ok (.sndUdDeselect bytes18 0xCA#8) := by rfl

theorem test_decode_sndUdReadoutSelection :
    decodeWire [0x68#8, 0x05#8, 0x05#8, 0x68#8, 0x53#8, 0x01#8, 0x51#8, 0x08#8, 0x13#8, 0xC0#8, 0x16#8] =
      .ok (.sndUdReadoutSelection 0x01#8 [0x08#8, 0x13#8] 0xC0#8) := by rfl

theorem test_decode_sndUdReadoutReset :
    decodeWire [0x68#8, 0x03#8, 0x03#8, 0x68#8, 0x53#8, 0x01#8, 0x50#8, 0xA4#8, 0x16#8] =
      .ok (.sndUdReadoutReset 0x01#8 [] 0xA4#8) := by rfl

/-- A long frame with the fields of SELECT and one payload byte is no request frame of the table. -/
theorem test_decode_select_of_other_length :
    decodeWire [0x68#8, 0x04#8, 0x04#8, 0x68#8, 0x53#8, 0xFD#8, 0x52#8, 0x01#8, 0xA3#8, 0x16#8] =
      .ok (.longFrame 0x53#8 0xFD#8 0x52#8 [0x01#8] 0xA3#8) := by rfl

theorem test_decode_reserved0 :
    decodeCommand 0x0A5080706050403020100FA800003E8#124 =
      .reserved0 0xA5#8 sec18 0x00FA#16 0x800003E8#32 := by decide

theorem test_decode_poll :
    decodeCommand 0x1A5080706050403020100FA800003E8#124 =
      .poll 0xA5#8 sec18 0x00FA#16 0x800003E8#32 := by decide

theorem test_decode_write :
    decodeCommand 0x2A5080706050403020100FA800003E8#124 =
      .write 0xA5#8 sec18 0x00FA#16 0x800003E8#32 := by decide

theorem test_decode_select :
    decodeCommand 0x3A5080706050403020100FA800003E8#124 =
      .select 0xA5#8 sec18 0x00FA#16 0x800003E8#32 := by decide

theorem test_decode_deselect :
    decodeCommand 0x4A5080706050403020100FA800003E8#124 =
      .deselect 0xA5#8 sec18 0x00FA#16 0x800003E8#32 := by decide

theorem test_decode_scan :
    decodeCommand 0x5A5080706050403020100FA800003E8#124 =
      .scan 0xA5#8 sec18 0x00FA#16 0x800003E8#32 := by decide

theorem test_decode_selro :
    decodeCommand 0x6A5080706050403020100FA800003E8#124 =
      .selro 0xA5#8 sec18 0x00FA#16 0x800003E8#32 := by decide

theorem test_decode_rstro :
    decodeCommand 0x7A5080706050403020100FA800003E8#124 =
      .rstro 0xA5#8 sec18 0x00FA#16 0x800003E8#32 := by decide

theorem test_decode_linkreset :
    decodeCommand 0x8A5080706050403020100FA800003E8#124 =
      .linkreset 0xA5#8 sec18 0x00FA#16 0x800003E8#32 := by decide

theorem test_decode_settimeout :
    decodeCommand 0x9A5080706050403020100FA800003E8#124 =
      .settimeout 0xA5#8 sec18 0x00FA#16 0x800003E8#32 := by decide

theorem test_decode_reservedA :
    decodeCommand 0xAA5080706050403020100FA800003E8#124 =
      .reservedA 0xA5#8 sec18 0x00FA#16 0x800003E8#32 := by decide

theorem test_decode_reservedB :
    decodeCommand 0xBA5080706050403020100FA800003E8#124 =
      .reservedB 0xA5#8 sec18 0x00FA#16 0x800003E8#32 := by decide

theorem test_decode_reservedC :
    decodeCommand 0xCA5080706050403020100FA800003E8#124 =
      .reservedC 0xA5#8 sec18 0x00FA#16 0x800003E8#32 := by decide

theorem test_decode_reservedD :
    decodeCommand 0xDA5080706050403020100FA800003E8#124 =
      .reservedD 0xA5#8 sec18 0x00FA#16 0x800003E8#32 := by decide

theorem test_decode_reservedE :
    decodeCommand 0xEA5080706050403020100FA800003E8#124 =
      .reservedE 0xA5#8 sec18 0x00FA#16 0x800003E8#32 := by decide

theorem test_decode_reservedF :
    decodeCommand 0xFA5080706050403020100FA800003E8#124 =
      .reservedF 0xA5#8 sec18 0x00FA#16 0x800003E8#32 := by decide

theorem test_refused_empty :
    decodeWire [] =
      .error .empty := by rfl

theorem test_refused_unknown_start :
    decodeWire [0xA5#8] =
      .error .unknownStart := by rfl

theorem test_refused_single_too_long :
    decodeWire [0xE5#8, 0xE5#8] =
      .error .wrongLength := by rfl

theorem test_refused_short_too_short :
    decodeWire [0x10#8, 0x7B#8, 0x11#8, 0x8C#8] =
      .error .wrongLength := by rfl

theorem test_refused_short_stop :
    decodeWire [0x10#8, 0x7B#8, 0x11#8, 0x8C#8, 0x17#8] =
      .error .stopByte := by rfl

theorem test_refused_length_below_3 :
    decodeWire [0x68#8, 0x02#8, 0x02#8, 0x68#8, 0x08#8, 0x01#8, 0x09#8, 0x16#8] =
      .error .lengthTooSmall := by rfl

theorem test_refused_length_mismatch :
    decodeWire [0x68#8, 0x03#8, 0x04#8, 0x68#8, 0x08#8, 0x11#8, 0x72#8, 0x8B#8, 0x16#8] =
      .error .lengthMismatch := by rfl

theorem test_refused_second_start :
    decodeWire [0x68#8, 0x03#8, 0x03#8, 0x69#8, 0x08#8, 0x11#8, 0x72#8, 0x8B#8, 0x16#8] =
      .error .secondStart := by rfl

theorem test_refused_long_stop :
    decodeWire [0x68#8, 0x03#8, 0x03#8, 0x68#8, 0x08#8, 0x11#8, 0x72#8, 0x8B#8, 0x17#8] =
      .error .stopByte := by rfl

theorem test_refused_long_too_short :
    decodeWire [0x68#8, 0x04#8, 0x04#8, 0x68#8, 0x08#8, 0x11#8, 0x72#8, 0x8B#8, 0x16#8] =
      .error .wrongLength := by rfl

theorem test_encode_write :
    encode (.sndUdWrite 0x01#8 [0x01#8, 0x7A#8, 0x02#8] 0x42#8) =
      some (.wire [0x68#8, 0x06#8, 0x06#8, 0x68#8, 0x73#8, 0x01#8, 0x51#8, 0x01#8, 0x7A#8, 0x02#8, 0x42#8, 0x16#8]) :=
      by decide

theorem test_encode_poll :
    encode (.poll 0x11#8 0#64 0#16 0#32) = some (.command 0x1110000000000000000000000000000#124) := by decide

/-- The 124 bits of a command row. -/
theorem test_table_word_command :
    decodeTableWord 124 0x3000807060504030201000000000000 = some (.select 0#8 sec18 0#16 0#32) := by decide

/-- A short frame, first byte in bits 7..0. -/
theorem test_table_word_first_byte_low :
    decodeTableWord 40 0x168C117B10 = some (.reqUd2Fcb1 0x11#8 0x8C#8) := by decide

/-- The same frame as `opcode_table.json` numbers it in its own columns, first byte most significant (R88). -/
theorem test_table_word_first_byte_high :
    decodeTableWord 40 0x107B118C16 = some (.reqUd2Fcb1 0x11#8 0x8C#8) := by decide

/-! ### One step of each instruction -/

/-- P1, step 1. -/
theorem test_poll_frame :
    after (exec (.poll 0x11#8 0#64 0#16 0#32) State.reset) (fun t => t.txbuf == mem poll17 && t.seq == .send && fcbBit
      t 0x11#8 == false) = true := by decide

/-- P1, step 4: the frame is `10 5B 11 6C 16` (spec/90_conflicts.md C1). -/
theorem test_poll_alternates :
    after (exec (.poll 0x11#8 0#64 0#16 0#32) (fcbFlip 0x11#8 State.reset)) (fun t => t.txbuf == mem [0x10#8, 0x5B#8,
      0x11#8, 0x6C#8, 0x16#8] && fcbBit t 0x11#8) = true := by decide

/-- P4, step 3. -/
theorem test_write_frame :
    after (exec (.write 0x01#8 0#64 3#16 0#32) ({ State.reset with payload := mem [0x01#8, 0x7A#8, 0x02#8] } : State))
      (fun t => t.txbuf == mem [0x68#8, 0x06#8, 0x06#8, 0x68#8, 0x73#8, 0x01#8, 0x51#8, 0x01#8, 0x7A#8, 0x02#8,
      0x42#8, 0x16#8] && t.txLen == 12#9) = true := by decide

/-- 2.5: `WRITE 5, 251`. -/
theorem test_write_too_large :
    after (exec (.write 0x05#8 0#64 251#16 0#32) State.reset) (fun t => t.res == { code := .payloadTooLarge } &&
      t.txLen == 0#9 && t.seq == .idle) = true := by decide

/-- S9: the bytes pass through in order, `cmd_addr` is latched and unused. -/
theorem test_select_frame :
    after (exec (.select 0x55#8 sec18 0#16 0#32) State.reset) (fun t => t.txbuf == mem [0x68#8, 0x0B#8, 0x0B#8,
      0x68#8, 0x53#8, 0xFD#8, 0x52#8, 0x01#8, 0x02#8, 0x03#8, 0x04#8, 0x05#8, 0x06#8, 0x07#8, 0x08#8, 0xC6#8, 0x16#8]
      && t.addr == 0x55#8) = true := by decide

/-- P3, step 5. -/
theorem test_deselect_frame :
    after (exec (.deselect 0#8 sec18 0#16 0#32) State.reset) (fun t => t.txbuf == mem [0x68#8, 0x0B#8, 0x0B#8, 0x68#8,
      0x53#8, 0xFD#8, 0x56#8, 0x01#8, 0x02#8, 0x03#8, 0x04#8, 0x05#8, 0x06#8, 0x07#8, 0x08#8, 0xCA#8, 0x16#8]) = true
      := by decide

/-- 2.5: `SCAN FF FF FF 1F FF FF FF FF`. -/
theorem test_scan_frame :
    after (exec (.scan 0#8 0xFFFFFFFF1FFFFFFF#64 0#16 0#32) State.reset) (fun t => t.txbuf == mem [0x68#8, 0x0B#8,
      0x0B#8, 0x68#8, 0x53#8, 0xFD#8, 0x52#8, 0xFF#8, 0xFF#8, 0xFF#8, 0x1F#8, 0xFF#8, 0xFF#8, 0xFF#8, 0xFF#8, 0xBA#8,
      0x16#8]) = true := by decide

/-- 2.5: `SELRO 1, 2`. -/
theorem test_selro_frame :
    after (exec (.selro 0x01#8 0#64 2#16 0#32) ({ State.reset with payload := mem [0x08#8, 0x13#8] } : State)) (fun t
      => t.txbuf == mem [0x68#8, 0x05#8, 0x05#8, 0x68#8, 0x53#8, 0x01#8, 0x51#8, 0x08#8, 0x13#8, 0xC0#8, 0x16#8]) =
      true := by decide

/-- 2.5: `RSTRO 1, 0`. -/
theorem test_rstro_frame :
    after (exec (.rstro 0x01#8 0#64 0#16 0#32) State.reset) (fun t => t.txbuf == mem [0x68#8, 0x03#8, 0x03#8, 0x68#8,
      0x53#8, 0x01#8, 0x50#8, 0xA4#8, 0x16#8]) = true := by decide

/-- 2.5: `LINKRESET 255`. -/
theorem test_linkreset_frame :
    after (exec (.linkreset 0xFF#8 0#64 0#16 0#32) State.reset) (fun t => t.txbuf == mem [0x10#8, 0x40#8, 0xFF#8,
      0x3F#8, 0x16#8] && t.fcb == State.reset.fcb) = true := by decide

/-- 2.6: not gated by `LINK`. -/
theorem test_settimeout_largest :
    after (exec (.settimeout 0#8 0#64 0#16 0x7FFFFFFF#32) ({ State.reset with link := false } : State)) (fun t =>
      t.timeout == 0x7FFFFFFF#32 && t.res == { flag := true }) = true := by decide

/-- 2.6: -2^31. -/
theorem test_settimeout_negative :
    after (exec (.settimeout 0#8 0#64 0#16 0x80000000#32) State.reset) (fun t => t.timeout == 300#32 && t.res == {
      code := .invalidArgument }) = true := by decide

theorem test_reserved0 :
    after (exec (.reserved0 0x11#8 sec18 9#16 1000#32) ({ State.reset with link := false } : State)) (fun t => t.res
      == { code := .invalidArgument } && t.op == 0x0#4 && t.timeout == 300#32) = true := by decide

theorem test_reservedA :
    after (exec (.reservedA 0x11#8 sec18 9#16 1000#32) ({ State.reset with link := false } : State)) (fun t => t.res
      == { code := .invalidArgument } && t.op == 0xA#4 && t.timeout == 300#32) = true := by decide

theorem test_reservedB :
    after (exec (.reservedB 0x11#8 sec18 9#16 1000#32) ({ State.reset with link := false } : State)) (fun t => t.res
      == { code := .invalidArgument } && t.op == 0xB#4 && t.timeout == 300#32) = true := by decide

theorem test_reservedC :
    after (exec (.reservedC 0x11#8 sec18 9#16 1000#32) ({ State.reset with link := false } : State)) (fun t => t.res
      == { code := .invalidArgument } && t.op == 0xC#4 && t.timeout == 300#32) = true := by decide

theorem test_reservedD :
    after (exec (.reservedD 0x11#8 sec18 9#16 1000#32) ({ State.reset with link := false } : State)) (fun t => t.res
      == { code := .invalidArgument } && t.op == 0xD#4 && t.timeout == 300#32) = true := by decide

theorem test_reservedE :
    after (exec (.reservedE 0x11#8 sec18 9#16 1000#32) ({ State.reset with link := false } : State)) (fun t => t.res
      == { code := .invalidArgument } && t.op == 0xE#4 && t.timeout == 300#32) = true := by decide

theorem test_reservedF :
    after (exec (.reservedF 0x11#8 sec18 9#16 1000#32) ({ State.reset with link := false } : State)) (fun t => t.res
      == { code := .invalidArgument } && t.op == 0xF#4 && t.timeout == 300#32) = true := by decide

/-- 2.1: the integer sum is 0x99A. -/
theorem test_checksum_wraps :
    after (exec (.checksum [0x53#8, 0xFD#8, 0x52#8, 0xFF#8, 0xFF#8, 0xFF#8, 0xFF#8, 0xFF#8, 0xFF#8, 0xFF#8, 0xFF#8])
      State.reset) (fun t => t.unitOut == .bytes [0x9A#8]) = true := by decide

theorem test_encSingle :
    after (exec (.encSingle) State.reset) (fun t => t.unitOut == .bytes [0xE5#8]) = true := by decide

/-- 2.1. -/
theorem test_encShort_wraps :
    after (exec (.encShort 0x80 0x80) State.reset) (fun t => t.unitOut == .bytes [0x10#8, 0x80#8, 0x80#8, 0x00#8,
      0x16#8]) = true := by decide

/-- R101: each operand is masked to one byte. -/
theorem test_encShort_masks :
    after (exec (.encShort (-1) 0x1FF) State.reset) (fun t => t.unitOut == .bytes [0x10#8, 0xFF#8, 0xFF#8, 0xFE#8,
      0x16#8]) = true := by decide

/-- 2.1. -/
theorem test_encLong_frame :
    after (exec (.encLong 0xFF#8 0xFF#8 0xFF#8 [0xFF#8]) State.reset) (fun t => t.unitOut == .bytes [0x68#8, 0x04#8,
      0x04#8, 0x68#8, 0xFF#8, 0xFF#8, 0xFF#8, 0xFF#8, 0xFC#8, 0x16#8]) = true := by decide

/-- 2.1: 251 bytes. -/
theorem test_encLong_too_large : encLong 0x05#8 0x73#8 0x51#8 (List.replicate 251 0xFF#8) = none := by
  rw [encLong, List.length_replicate]
  exact if_neg (by decide)

/-- 2.2. -/
theorem test_fcbNext_one :
    after (exec (.fcbNext 5#8) State.reset) (fun t => t.unitOut == .controlField 0x7B#8 && !fcbBit t 5#8 && fcbBit t
      6#8) = true := by decide

/-- 2.2. -/
theorem test_fcbNext_zero :
    after (exec (.fcbNext 255#8) (fcbFlip 255#8 State.reset)) (fun t => t.unitOut == .controlField 0x5B#8 && fcbBit t
      255#8) = true := by decide

/-- 2.2. -/
theorem test_fcbReset :
    after (exec (.fcbReset 3#8) (fcbFlip 4#8 (fcbFlip 3#8 State.reset))) (fun t => fcbBit t 3#8 && !fcbBit t 4#8) =
      true := by decide

/-- 2.2. -/
theorem test_fcbInit :
    after (exec (.fcbInit) (fcbFlip 17#8 (fcbFlip 5#8 State.reset))) (fun t => t.fcb == BitVec.allOnes 256) = true :=
      by decide

/-- R121: `RXBUF` is not cleared. -/
theorem test_rxArm :
    after (exec (.rxArm) (receiving 1#4 .incomplete 14#9 [0x68#8, 0x08#8, 0x08#8])) (fun t => t.rxs == .awaitFirst &&
      t.rxn == 0#9 && t.rxexp == 0#9 && t.tickSync && t.rxbuf == mem [0x68#8, 0x08#8, 0x08#8]) = true := by decide

/-- S5, byte 2. -/
theorem test_rxByte_length :
    after (exec (.rxByte 0x08#8) (receiving 1#4 .awaitLen 0#9 [0x68#8])) (fun t => t.rxs == .lenKnown && t.rxexp ==
      14#9 && t.rxn == 2#9) = true := by decide

/-- P1, step 3, byte 14. -/
theorem test_rxByte_last :
    after (exec (.rxByte 0x16#8) (receiving 1#4 .lenKnown 14#9 (rsp.take 13))) (fun t => t.rxs == .complete && t.seq
      == .idle && t.res == results true .rspUd 0b11111#5) = true := by decide

/-- S6: the third tick, by `>=`. -/
theorem test_rxTick_expires :
    after (exec (.rxTick) ({ armed 1#4 with elapsed := 200#32 } : State)) (fun t => t.rxs == .timedOut && t.elapsed ==
      300#32 && t.res.code == .timeout && t.seq == .idle) = true := by decide

/-- S7 and P5, row 4: `SCAN` does not map it. -/
theorem test_rxTick_incomplete :
    after (exec (.rxTick) ({ receiving 5#4 .lenKnown 14#9 [0x68#8, 0x08#8, 0x08#8] with elapsed := 200#32 } : State))
      (fun t => t.rxs == .incomplete && t.res.code == .incompleteMessage) = true := by decide

/-- 2.4, all four checks fail. -/
theorem test_rxClassify_all_four :
    after (exec (.rxClassify) (receiving 1#4 .complete 14#9 [0x68#8, 0x08#8, 0x09#8, 0x69#8, 0x08#8, 0x11#8, 0x72#8,
      0x11#8, 0x22#8, 0x33#8, 0x44#8, 0x55#8, 0x8B#8, 0x17#8])) (fun t => t.res == results false .malformed 0b00001#5)
      = true := by decide

/-- 2.4, `L = 2`: the field registers keep their value. -/
theorem test_rxClassify_short_length :
    after (exec (.rxClassify) (receiving 1#4 .complete 8#9 [0x68#8, 0x02#8, 0x02#8, 0x68#8, 0x08#8, 0x01#8, 0x09#8,
      0x16#8])) (fun t => t.res == { cls := .malformed, integ := 0b11110#5 }) = true := by decide

/-- R140: the POLL row calls `FCB_NEXT`. -/
theorem test_mux_poll :
    after (exec (.mux .poll) ({ State.reset with addr := 7#8 } : State)) (fun t => t.unitOut == .fields (.short 0x7B#8
      7#8) && !fcbBit t 7#8) = true := by decide

theorem test_mux_deselect :
    after (exec (.mux .deselect) ({ State.reset with addr := 7#8 } : State)) (fun t => t.unitOut == .fields (.long
      0x53#8 0xFD#8 0x56#8 .secondary) && t.fcb == State.reset.fcb) = true := by decide

/-- 2.5, `LINKRESET` acknowledged. -/
theorem test_singleCharacter :
    after (exec (.singleCharacter) { armed 8#4 with fcb := 0#256 }) (fun t => t.res == { flag := true, cls := .single
      } && fcbBit t 0x11#8 && !fcbBit t 0x10#8) = true := by decide

/-- 2.3: a short frame never completes. -/
theorem test_shortFrame :
    after (exec (.shortFrame 0x08#8 0x01#8 0x09#8) (armed 1#4)) (fun t => t.rxs == .awaitLen && t.rxn == 5#9 && t.seq
      == .recv) = true := by decide

/-- 2.4: the address field differs. -/
theorem test_longFrame :
    after (exec (.longFrame 0x08#8 0x12#8 0x72#8 [] 0x8C#8) (armed 1#4)) (fun t => t.res.code == .ok && t.res.afmis &&
      t.res.cls == .rspUd) = true := by decide

/-- P1, step 2. -/
theorem test_reqUd2Fcb1 :
    after (exec (.reqUd2Fcb1 0x11#8 0x8C#8) (sending 1#4 poll17 0#9)) (fun t => t.tx == poll17 && t.seq == .recv &&
      t.rxs == .awaitFirst && t.tickSync) = true := by decide

theorem test_reqUd2Fcb0 :
    after (exec (.reqUd2Fcb0 0x11#8 0x6C#8) (sending 1#4 [0x10#8, 0x5B#8, 0x11#8, 0x6C#8, 0x16#8] 0#9)) (fun t =>
      t.txI == 5#9 && t.seq == .recv) = true := by decide

theorem test_sndNke :
    after (exec (.sndNke 0x03#8 0x43#8) (sending 8#4 [0x10#8, 0x40#8, 0x03#8, 0x43#8, 0x16#8] 0#9)) (fun t => t.txI ==
      5#9 && t.seq == .recv) = true := by decide

theorem test_sndUdWrite :
    after (exec (.sndUdWrite 0x01#8 [] 0xC5#8) (sending 2#4 [0x68#8, 0x03#8, 0x03#8, 0x68#8, 0x73#8, 0x01#8, 0x51#8,
      0xC5#8, 0x16#8] 0#9)) (fun t => t.txI == 9#9 && t.seq == .recv) = true := by decide

theorem test_sndUdSelect :
    after (exec (.sndUdSelect bytes18 0xC6#8) (sending 3#4 [0x68#8, 0x0B#8, 0x0B#8, 0x68#8, 0x53#8, 0xFD#8, 0x52#8,
      0x01#8, 0x02#8, 0x03#8, 0x04#8, 0x05#8, 0x06#8, 0x07#8, 0x08#8, 0xC6#8, 0x16#8] 0#9)) (fun t => t.txI == 17#9 &&
      t.seq == .recv) = true := by decide

theorem test_sndUdDeselect :
    after (exec (.sndUdDeselect bytes18 0xCA#8) (sending 4#4 [0x68#8, 0x0B#8, 0x0B#8, 0x68#8, 0x53#8, 0xFD#8, 0x56#8,
      0x01#8, 0x02#8, 0x03#8, 0x04#8, 0x05#8, 0x06#8, 0x07#8, 0x08#8, 0xCA#8, 0x16#8] 0#9)) (fun t => t.txI == 17#9 &&
      t.seq == .recv) = true := by decide

theorem test_sndUdReadoutSelection :
    after (exec (.sndUdReadoutSelection 0x01#8 [] 0xA5#8) (sending 6#4 [0x68#8, 0x03#8, 0x03#8, 0x68#8, 0x53#8,
      0x01#8, 0x51#8, 0xA5#8, 0x16#8] 0#9)) (fun t => t.txI == 9#9 && t.seq == .recv) = true := by decide

theorem test_sndUdReadoutReset :
    after (exec (.sndUdReadoutReset 0x01#8 [] 0xA4#8) (sending 7#4 [0x68#8, 0x03#8, 0x03#8, 0x68#8, 0x53#8, 0x01#8,
      0x50#8, 0xA4#8, 0x16#8] 0#9)) (fun t => t.txI == 9#9 && t.seq == .recv) = true := by decide

/-- P5, row 2. -/
theorem test_txerr_of_scan :
    after (onEvent .txerr (sending 5#4 poll17 3#9)) (fun t => t.res.code == .ok && t.res.flag && t.txI == 3#9) = true
      := by decide

/-- The next step runs exactly the placed word. -/
theorem test_withFetchWord_poll :
    after (step (State.reset.withFetchWord 124 0x1110000000000000000000000000000)) (fun t => t.txbuf == mem poll17) =
      true := by decide

/-! ### Witnesses: states and operands that meet the hypotheses of the statements

`witness_<Name>` is of the statement `Obligations.<Name>`; a statement with several clauses has one for each. -/

/-- The receiver part of the invariant as a check. -/
def receiverCheck (s : State) : Bool :=
  match s.rxs with
  | .idle => s.rxn.toNat == 0
  | .awaitFirst => s.rxn.toNat == 0
  | .awaitLen => decide (1 ≤ s.rxn.toNat) && expectedLength s == none
  | .lenKnown => expectedLength s == some s.rxexp.toNat && decide (s.rxn.toNat < s.rxexp.toNat)
  | .complete => expectedLength s == some s.rxexp.toNat && s.rxn.toNat == s.rxexp.toNat
  | .timedOut => s.rxn.toNat == 0
  | .incomplete => decide (0 < s.rxn.toNat)

/-- `Emitted` as a check. -/
def emittedCheck (s : State) : Bool :=
  decide (s.txI.toNat ≤ s.tx.length) && (List.range s.txI.toNat).all
    (fun i => s.txbuf.read? i == (s.tx.drop (s.tx.length - s.txI.toNat))[i]?)

/-- A state that passes that check has its first `TXI` bytes at the end of the trace. -/
theorem emitted_of_check {s : State} (h : emittedCheck s = true) : Emitted s := by
  simp only [emittedCheck, Bool.and_eq_true, decide_eq_true_eq, List.all_eq_true, List.mem_range, beq_iff_eq] at h
  exact ⟨s.tx.take (s.tx.length - s.txI.toNat), s.tx.drop (s.tx.length - s.txI.toNat),
    (List.take_append_drop _ _).symm, by rw [List.length_drop]; omega, h.2⟩

/-- The invariant as a check, to be evaluated on a concrete state. -/
def engineCheck (s : State) : Bool :=
  (s.payload.wf && s.payload.below maxPayload && s.txbuf.wf && s.txbuf.below 259 && s.rxbuf.wf &&
    s.rxbuf.below maxFrame) &&
  (s.seq != .send ||
    (s.link && (busOpOf s.op).isSome && decide (s.txI.toNat < s.txLen.toNat) && decide (5 ≤ s.txLen.toNat) &&
      decide (s.txLen.toNat ≤ 259) && (List.range s.txLen.toNat).all (fun i => (s.txbuf.read? i).isSome) &&
      emittedCheck s)) &&
  (s.seq != .recv ||
    (s.link && (busOpOf s.op).isSome && s.rxs.waiting && decide (s.elapsed.toNat < s.timeout.toNat) &&
      s.txI == s.txLen && emittedCheck s)) &&
  (decide (1 ≤ s.timeout.toNat) && decide (s.timeout.toNat < 2 ^ 31) && decide (s.rxn.toNat ≤ maxFrame)) &&
  (List.range s.rxn.toNat).all (fun i => (s.rxbuf.read? i).isSome) && receiverCheck s &&
  (s.res.code != .decodingError && s.res.code != .connectionError && s.res.cls != .short &&
    (!s.res.flag || s.res.code == .ok))

/-- A state that passes the check meets the invariant. -/
theorem engineInv_of_check {s : State} (h : engineCheck s = true) : EngineInv s := by
  simp only [engineCheck, Bool.and_eq_true, decide_eq_true_eq, List.all_eq_true, List.mem_range] at h
  obtain ⟨⟨⟨⟨⟨⟨⟨⟨⟨⟨⟨hp, hpb⟩, ht⟩, htb⟩, hr⟩, hrb⟩, hs⟩, hv⟩, ⟨⟨ht1, ht2⟩, hn⟩⟩, hw⟩, hx⟩,
    ⟨⟨⟨hc1, hc2⟩, hc3⟩, hc4⟩⟩ := h
  refine ⟨⟨hp, hpb, ht, htb, hr, hrb⟩, fun e => ?_, fun e => ?_, ht1, ht2, hn, hw, ?_, ?_⟩
  · simp only [e, bne_self_eq_false, Bool.false_or, Bool.and_eq_true, decide_eq_true_eq, List.all_eq_true,
      List.mem_range] at hs
    obtain ⟨⟨⟨⟨⟨⟨h1, h2⟩, h3⟩, h4⟩, h5⟩, h6⟩, h7⟩ := hs
    exact ⟨h1, h2, h3, h4, h5, h6, emitted_of_check h7⟩
  · simp only [e, bne_self_eq_false, Bool.false_or, Bool.and_eq_true, decide_eq_true_eq, beq_iff_eq] at hv
    obtain ⟨⟨⟨⟨⟨h1, h2⟩, h3⟩, h4⟩, h5⟩, h6⟩ := hv
    exact ⟨h1, h2, h3, h4, h5, emitted_of_check h6⟩
  · unfold receiverCheck at hx
    unfold ReceiverStateInv
    split <;> rename_i he <;> simpa [he] using hx
  · refine ⟨by simpa using hc1, by simpa using hc2, by simpa using hc3, fun hf => ?_⟩
    simpa [hf] using hc4

/-- The frame of `SCAN 01 .. 08`. -/
def scanFrame : List Byte := longBytes 0x53#8 0xFD#8 0x52#8 bytes18 0xC6#8

/-- The eleven wire rows, well formed. -/
def wireRows : List Instr :=
  [.singleCharacter, .shortFrame 0x08#8 0x11#8 0x19#8, .longFrame 0x08#8 0x11#8 0x72#8 [] 0x8B#8,
    .reqUd2Fcb1 0x11#8 0x8C#8, .reqUd2Fcb0 0x11#8 0x6C#8, .sndNke 0x03#8 0x43#8, .sndUdWrite 0x01#8 [0x7A#8] 0x3F#8,
    .sndUdSelect bytes18 0xC6#8, .sndUdDeselect bytes18 0xCA#8, .sndUdReadoutSelection 0x01#8 [] 0xA5#8,
    .sndUdReadoutReset 0x01#8 [] 0xA4#8]

/-- The six long rows, with a right and with a wrong checksum byte. -/
def longRows (wrong : Byte) : List (Instr × List Byte) :=
  [(.longFrame 0x08#8 0x11#8 0x72#8 [] (0x8B#8 + wrong), longBytes 0x08#8 0x11#8 0x72#8 [] (0x8B#8 + wrong)),
    (.sndUdWrite 0x01#8 [0x7A#8] (0x3F#8 + wrong), longBytes 0x73#8 0x01#8 0x51#8 [0x7A#8] (0x3F#8 + wrong)),
    (.sndUdSelect bytes18 (0xC6#8 + wrong), longBytes 0x53#8 0xFD#8 0x52#8 bytes18 (0xC6#8 + wrong)),
    (.sndUdDeselect bytes18 (0xCA#8 + wrong), longBytes 0x53#8 0xFD#8 0x56#8 bytes18 (0xCA#8 + wrong)),
    (.sndUdReadoutSelection 0x01#8 [] (0xA5#8 + wrong), longBytes 0x53#8 0x01#8 0x51#8 [] (0xA5#8 + wrong)),
    (.sndUdReadoutReset 0x01#8 [] (0xA4#8 + wrong), longBytes 0x53#8 0x01#8 0x50#8 [] (0xA4#8 + wrong))]

/-- The bytes of an instruction's encoding on the line. -/
def wireBytes (i : Instr) : List Byte :=
  match encode i with
  | some (.wire b) => b
  | some (.command _) => []
  | none => []

/-- All eight operations. -/
def allOps : List BusOp := [.poll, .write, .select, .deselect, .scan, .selro, .rstro, .linkreset]

/-- A state with one event to come. -/
def facing (e : Event) (s : State) : State := { s with inbox := [e] }

/-- Just armed for any operation. -/
theorem justArmed_armed (op : BitVec 4) : JustArmed (armed op) := ⟨rfl, rfl, rfl, rfl⟩

/-- A waiting receiver with `n` bytes, all zero, for the boundary of the buffer. -/
def full (n : Nat) : State :=
  { State.reset with seq := .recv, op := 1#4, rxs := .awaitLen, rxn := BitVec.ofNat 9 n }

theorem witness_DecodeOfEncodeIsIdentity :
    (∀ i ∈ wireRows, WellFormed i = true ∧ encode i = some (.wire (wireBytes i))) ∧
      ∀ op ∈ allOps, WellFormed (busInstr op 0xFF#8 sec18 0xFFFF#16 0#32) = true := by decide

theorem witness_EncodeOfDecodeIsIdentity :
    decode (.wire rsp) = .ok (.longFrame 0x08#8 0x11#8 0x72#8 [0x11#8, 0x22#8, 0x33#8, 0x44#8, 0x55#8] 0x8A#8) ∧
      decode (.command 0x1110000000000000000000000000000#124) = .ok (.poll 0x11#8 0#64 0#16 0#32) := ⟨rfl, rfl⟩

/-- A command word at the port of the idle engine. -/
def offered : State := { State.reset with cmdPort := [0x1110000000000000000000000000000#124] }

/-- Nothing to come; the offering to come; one word more to come. -/
theorem witness_StepRunsTheOfferedCommand :
    offered.seq = .idle ∧ offered.cmdPort = 0x1110000000000000000000000000000#124 :: [] ∧ offered.inbox = [] ∧
      (facing .offerCommand offered).inbox = .offerCommand :: [] ∧ (facing (.cmd 5#124) offered).inbox = .cmd 5#124 :: [] := by
  decide

/-- A waiting receiver for whose transport a byte waits already. -/
def stale : State := { armed 1#4 with rxHeld := [0xE5#8] }

theorem witness_StepRunsTheNextEvent :
    (∀ e ∈ [Event.frame poll17, .frame [0xA5#8], .rxbyte 0xE5#8, .tick, .cmd 0#124],
      (facing e (armed 1#4)).inbox = e :: [] ∧ (facing e (armed 1#4)).rxHeld = [] ∧
        (facing e (armed 1#4)).cmdPort = []) ∧
    decodeWire poll17 = .ok (.reqUd2Fcb1 0x11#8 0x8C#8) ∧ decodeWire [0xA5#8] = .error .unknownStart :=
  ⟨by decide, rfl, rfl⟩

/-- A byte behind a held one; a held byte offered; a held byte with nothing to come. -/
theorem witness_StepRunsTheNextEvent_held :
    (∀ e ∈ [Event.rxbyte 0x68#8, .offerByte],
      (facing e stale).inbox = e :: [] ∧ rxReady (facing e stale) = true ∧ (facing e stale).rxHeld = 0xE5#8 :: []) ∧
    stale.inbox = [] ∧ rxReady stale = true ∧ stale.rxHeld = 0xE5#8 :: [] := by decide

theorem witness_NothingEndsWithoutAnEvent :
    ∀ e ∈ [Event.rxbyte 0xE5#8, .link false, .reset true, .frame [0xE5#8]],
      (facing e (armed 2#4)).seq ≠ .idle ∧ after (step (facing e (armed 2#4))) (fun t => t.seq == .idle) = true := by
  decide

/-- The expiring tick, a held byte offered by an event or by the step, and the failure of sending. -/
theorem witness_NothingEndsWithoutAnEvent_others :
    ∀ s ∈ [facing .tick { armed 1#4 with elapsed := 200#32 }, facing .offerByte stale, stale,
        facing .txerr (sending 1#4 poll17 2#9)],
      s.seq ≠ .idle ∧ after (step s) (fun t => t.seq == .idle) = true := by decide

theorem witness_NothingEndsWithoutAnEvent_wait :
    ∀ s ∈ [armed 1#4, sending 1#4 poll17 0#9, State.reset],
      s.inbox = [] ∧ (rxReady s = true → s.rxHeld = []) ∧ (s.seq = .idle → s.cmdPort = []) := by decide

theorem witness_ChecksumIsTheSumModulo256 : [0x7B#8, 0x11#8].Perm [0x11#8, 0x7B#8] := .swap _ _ _

theorem witness_EncLongAnswersTheLongFrameOrFails :
    (List.replicate 250 0xFF#8).length ≤ 250 ∧ ([] : List Byte).length ≤ 250 ∧
      250 < (List.replicate 251 0xFF#8).length := by
  rw [List.length_replicate, List.length_replicate]
  decide

/-- One step each that writes a latch. -/
theorem witness_OnlyFourEventsWriteTheLatches :
    after (step offered) (fun t => fcbBit t 0x11#8 != fcbBit offered 0x11#8) = true ∧
    after (step (facing (.rxbyte 0xE5#8) { armed 8#4 with fcb := 0#256 })) (fun t => fcbBit t 0x11#8) = true ∧
    after (step (facing (.link true) { State.reset with link := false, fcb := 0#256 })) (fun t => fcbBit t 3#8) = true ∧
    after (step (facing (.reset true) { State.reset with fcb := 0#256 })) (fun t => fcbBit t 3#8) = true := by
  decide

theorem witness_RxByteStoresTheByteOrLeavesIt :
    rxReady (armed 1#4) = true ∧ rxReady (full 260) = true ∧ rxReady (full 261) = false := by decide

theorem witness_RxByteAdvancesTheLength_first : EngineInv (armed 1#4) ∧ rxReady (armed 1#4) = true :=
  ⟨engineInv_of_check (by decide), by decide⟩

theorem witness_RxByteAdvancesTheLength_length :
    EngineInv (receiving 1#4 .awaitLen 0#9 [0x68#8]) ∧ rxReady (receiving 1#4 .awaitLen 0#9 [0x68#8]) = true ∧
      (receiving 1#4 .awaitLen 0#9 [0x68#8]).rxbuf.read? 0 = some 0x68#8 :=
  ⟨engineInv_of_check (by decide), by decide, by decide⟩

theorem witness_RxByteAdvancesTheLength_unknown :
    EngineInv (receiving 1#4 .awaitLen 0#9 [0x10#8, 0x68#8]) ∧
      rxReady (receiving 1#4 .awaitLen 0#9 [0x10#8, 0x68#8]) = true ∧
      (receiving 1#4 .awaitLen 0#9 [0x10#8, 0x68#8]).rxbuf.read? 0 ≠ some 0x68#8 :=
  ⟨engineInv_of_check (by decide), by decide, by decide⟩

/-- The byte that completes the frame, and the one before it. -/
theorem witness_RxByteAdvancesTheLength_known :
    (EngineInv (receiving 1#4 .lenKnown 14#9 (rsp.take 13)) ∧
      rxReady (receiving 1#4 .lenKnown 14#9 (rsp.take 13)) = true ∧
      (receiving 1#4 .lenKnown 14#9 (rsp.take 13)).rxn + 1#9 = (receiving 1#4 .lenKnown 14#9 (rsp.take 13)).rxexp) ∧
    EngineInv (receiving 1#4 .lenKnown 14#9 (rsp.take 12)) ∧
      rxReady (receiving 1#4 .lenKnown 14#9 (rsp.take 12)) = true ∧
      (receiving 1#4 .lenKnown 14#9 (rsp.take 12)).rxn + 1#9 ≠ (receiving 1#4 .lenKnown 14#9 (rsp.take 12)).rxexp :=
  ⟨⟨engineInv_of_check (by decide), by decide, by decide⟩, engineInv_of_check (by decide), by decide, by decide⟩

theorem witness_CompleteFrameEndsTheOperation_single :
    ∀ op ∈ allOps, rxReady (armed (opcodeOf op)) = true ∧ busOpOf (armed (opcodeOf op)).op = some op ∧
      (armed (opcodeOf op)).rxs = .awaitFirst ∧ (armed (opcodeOf op)).rxn = 0#9 := by decide

theorem witness_CompleteFrameEndsTheOperation_long :
    ∀ op ∈ allOps, rxReady (receiving (opcodeOf op) .lenKnown 14#9 (rsp.take 13)) = true ∧
      busOpOf (receiving (opcodeOf op) .lenKnown 14#9 (rsp.take 13)).op = some op ∧
      (receiving (opcodeOf op) .lenKnown 14#9 (rsp.take 13)).rxn + 1#9 =
        (receiving (opcodeOf op) .lenKnown 14#9 (rsp.take 13)).rxexp := by decide

theorem witness_CompleteFrameEndsTheOperation :
    completesFrame 0xE5#8 (armed 2#4) ∧ completesFrame 0x16#8 (receiving 1#4 .lenKnown 14#9 (rsp.take 13)) :=
  ⟨.inl ⟨rfl, rfl, rfl⟩, .inr ⟨rfl, by decide⟩⟩

/-- Not waiting; one millisecond below the timeout; exactly at it, without and with bytes, for `SCAN` too. -/
theorem witness_RxTickCountsAndExpires :
    receiverWaits State.reset = false ∧
    (receiverWaits { armed 1#4 with elapsed := 199#32 } = true ∧
      199#32 + (armed 1#4).cfg.pollMs < (armed 1#4).timeout) ∧
    (receiverWaits { armed 5#4 with elapsed := 200#32 } = true ∧
      (armed 5#4).timeout ≤ 200#32 + (armed 5#4).cfg.pollMs ∧ (armed 5#4).rxn = 0#9) ∧
    (receiverWaits { full 3 with elapsed := 200#32 } = true ∧ (full 3).timeout ≤ 200#32 + (full 3).cfg.pollMs ∧
      (full 3).rxn ≠ 0#9) := by decide

/-- The largest timeout and the largest polling increment; a smallest timeout takes one tick. -/
theorem witness_TimeoutTakesItsNumberOfTicks :
    receiverWaits { armed 1#4 with timeout := 0x7FFFFFFF#32, cfg := ⟨0x80000000#32, true⟩ } = true ∧
      (armed 1#4).elapsed = 0#32 ∧ 1 ≤ (0x7FFFFFFF#32).toNat ∧ (0x7FFFFFFF#32).toNat < 2 ^ 31 ∧
      1 ≤ (0x80000000#32).toNat ∧ (0x80000000#32).toNat ≤ 2 ^ 31 := by
  refine ⟨rfl, rfl, ?_⟩
  simp

theorem witness_TimeoutTakesItsNumberOfTicks_one :
    receiverWaits { armed 1#4 with timeout := 1#32 } = true ∧ 1 ≤ (1#32).toNat ∧ (1#32).toNat < 2 ^ 31 ∧
      1 ≤ (armed 1#4).cfg.pollMs.toNat ∧ (armed 1#4).cfg.pollMs.toNat ≤ 2 ^ 31 := by decide

theorem witness_ClassifierComputesTheFiveChecks :
    (receiving 1#4 .complete 1#9 [0xE5#8]).rxn = 1#9 ∧
    ((receiving 1#4 .complete 14#9 rsp).rxn ≠ 1#9 ∧
      3 ≤ ((receiving 1#4 .complete 14#9 rsp).byteAt .rxbuf 1).toNat) ∧
    3 = ((receiving 1#4 .complete 9#9 [0x68#8, 3#8]).byteAt .rxbuf 1).toNat ∧
    ((receiving 1#4 .complete 8#9 [0x68#8, 2#8]).rxn ≠ 1#9 ∧
      ((receiving 1#4 .complete 8#9 [0x68#8, 2#8]).byteAt .rxbuf 1).toNat < 3) := by decide

theorem witness_UnknownStartNeverCompletes : JustArmed (armed 1#4) ∧ 0x10#8 ≠ 0xE5#8 ∧ 0x10#8 ≠ 0x68#8 :=
  ⟨justArmed_armed _, by decide, by decide⟩

theorem witness_OfferedFrameLeavesWhole :
    ∀ i ∈ wireRows, encode i = some (.wire (wireBytes i)) ∧
      offersFrame (wireBytes i) (sending 1#4 (wireBytes i) 0#9) = true := by decide

theorem witness_SentFrameIsItsAcknowledgements :
    encode (.sndUdSelect bytes18 0xC6#8) = some (.wire scanFrame) ∧
      offersFrame scanFrame (sending 5#4 scanFrame 0#9) = true := by decide

theorem witness_FrameWithoutReceiverIsHeld :
    ∀ i ∈ wireRows, encode i = some (.wire (wireBytes i)) ∧ offersFrame (wireBytes i) State.reset = false ∧
      rxReady State.reset = false := by decide

theorem witness_ArrivingFrameIsItsBytes :
    ∀ i ∈ wireRows, encode i = some (.wire (wireBytes i)) ∧ offersFrame (wireBytes i) (armed 1#4) = false ∧
      offersFrame (wireBytes i) stale = false ∧ offersFrame (wireBytes i) (sending 1#4 poll17 1#9) = false := by decide

theorem witness_SingleCharacterAcknowledges :
    ∀ op ∈ allOps, JustArmed (armed (opcodeOf op)) ∧ busOpOf (armed (opcodeOf op)).op = some op := by
  intro op _
  cases op <;> exact ⟨justArmed_armed _, rfl⟩

theorem witness_ShortFramesAreOnlyAccumulated :
    JustArmed (armed 1#4) ∧
      encode (.shortFrame 0x08#8 0x11#8 0x19#8) = some (.wire [0x10#8, 0x08#8, 0x11#8, 0x19#8, 0x16#8]) ∧
      encode (.reqUd2Fcb1 0x11#8 0x8C#8) = some (.wire [0x10#8, 0x7B#8, 0x11#8, 0x8C#8, 0x16#8]) ∧
      encode (.reqUd2Fcb0 0x11#8 0x6C#8) = some (.wire [0x10#8, 0x5B#8, 0x11#8, 0x6C#8, 0x16#8]) ∧
      encode (.sndNke 0x03#8 0x43#8) = some (.wire [0x10#8, 0x40#8, 0x03#8, 0x43#8, 0x16#8]) :=
  ⟨justArmed_armed _, rfl, rfl, rfl, rfl⟩

theorem witness_LongFramesAreClassifiedByTheirChecksum :
    JustArmed (armed 2#4) ∧ busOpOf (armed 2#4).op = some .write ∧ ([] : List Byte).length ≤ 252 ∧
      ∀ r ∈ longRows 0#8 ++ longRows 1#8, encode r.1 = some (.wire r.2) :=
  ⟨justArmed_armed _, rfl, by decide, by decide⟩

theorem witness_LongFrameAnswersAPoll :
    JustArmed (armed 1#4) ∧ (armed 1#4).op = 0x1#4 ∧ (armed 1#4).res = {} ∧
      ([] : List Byte).length ≤ 252 :=
  ⟨justArmed_armed _, rfl, rfl, by decide⟩

/-- The longest payload of a response. -/
theorem witness_LongFrameAnswersAPoll_longest : (List.replicate 252 0x01#8).length ≤ 252 ∧ (armed 1#4).res = {} := by
  rw [List.length_replicate]
  decide

theorem witness_AnsweredPollDeliversItsPayload :
    State.reset.seq = .idle ∧ State.reset.link = true ∧ State.reset.rxHeld = [] ∧
      State.reset.cmdPort = [] ∧ ([] : List Byte).length ≤ 252 := by decide

/-- The hypotheses of the commands that build a request: `PollBuildsItsRequest`, `SecondaryCommandsBuildTheirRequests`,
`LinkResetBuildsItsRequest`, and `PayloadCommandsBuildTheirRequests` at its shortest and longest payload. -/
theorem witness_PayloadCommandsBuildTheirRequests :
    State.reset.seq = .idle ∧ State.reset.link = true ∧ (0#16).toNat ≤ 250 ∧ (250#16).toNat ≤ 250 := by decide

theorem witness_PollBuildsItsRequest : State.reset.seq = .idle ∧ State.reset.link = true := by decide

theorem witness_SecondaryCommandsBuildTheirRequests : State.reset.seq = .idle ∧ State.reset.link = true := by decide

theorem witness_LinkResetBuildsItsRequest : State.reset.seq = .idle ∧ State.reset.link = true := by decide

theorem witness_ClosedLinkGivesNotOpen :
    ({ State.reset with link := false } : State).seq = .idle ∧
      ({ State.reset with link := false } : State).link = false := by decide

theorem witness_LongPayloadIsTooLarge :
    ∀ op ∈ [BusOp.write, .selro, .rstro], (op = .write ∨ op = .selro ∨ op = .rstro) ∧ State.reset.seq = .idle ∧
      State.reset.link = true ∧ 250 < (251#16).toNat ∧ 250 < (0xFFFF#16).toNat := by decide

theorem witness_SetTimeoutWritesAPositiveNumber :
    State.reset.seq = .idle ∧ 0 < (1#32).toInt ∧ 0 < (0x7FFFFFFF#32).toInt ∧ (0#32).toInt ≤ 0 ∧
      (0x80000000#32).toInt ≤ 0 ∧ (0xFFFFFFFF#32).toInt ≤ 0 := by decide

theorem witness_ReservedOpcodesAreInvalid :
    State.reset.seq = .idle ∧ (reservedRows 0#8 0#64 0#16 0#32).length = 7 := by decide

theorem witness_BusyEngineAcceptsNoCommand :
    (sending 1#4 poll17 0#9).seq ≠ .idle ∧ (armed 1#4).seq ≠ .idle := by decide

theorem witness_PayloadWriteIsOneByte : (249#8).toNat ≤ 249 ∧ (0#8).toNat ≤ 249 ∧ 249 < (250#8).toNat := by decide

/-- The first byte, the last byte, and a state that offers none. -/
theorem witness_AcknowledgedByteLeaves :
    (EngineInv (sending 1#4 poll17 0#9) ∧ (sending 1#4 poll17 0#9).seq = .send ∧
      (sending 1#4 poll17 0#9).txI.toNat + 1 < (sending 1#4 poll17 0#9).txLen.toNat) ∧
    (EngineInv (sending 1#4 poll17 4#9) ∧
      (sending 1#4 poll17 4#9).txI.toNat + 1 = (sending 1#4 poll17 4#9).txLen.toNat) ∧
    EngineInv (armed 1#4) ∧ (armed 1#4).seq ≠ .send :=
  ⟨⟨engineInv_of_check (by decide), by decide, by decide⟩, ⟨engineInv_of_check (by decide), by decide⟩,
    engineInv_of_check (by decide), by decide⟩

theorem witness_SendFailureIsIoErrorExceptForScan :
    ((sending 5#4 poll17 3#9).seq = .send ∧ (sending 5#4 poll17 3#9).op = 0x5#4 ∧
      (sending 5#4 poll17 3#9).link = true) ∧
    ((sending 1#4 poll17 3#9).seq = .send ∧ (sending 1#4 poll17 3#9).op ≠ 0x5#4) ∧ (armed 1#4).seq ≠ .send := by
  decide

theorem witness_LinkEventsStartAndEndSessions :
    ({ State.reset with link := false } : State).link = false ∧
      (State.reset.link = true ∧ State.reset.seq = .idle) ∧ ((armed 5#4).link = true ∧ (armed 5#4).seq = .recv) := by
  decide

/-- A clock cycle in which a byte comes and a tick falls. -/
def byteAndTick (b : Byte) : CycleInputs := ⟨false, true, true, true, some b, true, none, some 5#124⟩

theorem witness_CompletingByteWinsOverTheTick :
    rxReady (armed 8#4) = true ∧ (busOpOf (armed 8#4).op).isSome = true ∧ completesFrame 0xE5#8 (armed 8#4) ∧
      (byteAndTick 0xE5#8).linkOpen = (armed 8#4).link ∧ (armed 8#4).rxHeld ++ [0xE5#8] = 0xE5#8 :: [] :=
  ⟨by decide, by decide, .inl ⟨rfl, rfl, rfl⟩, rfl, rfl⟩

/-- The byte completes the frame in the cycle of the expiring tick, and the poll ends `OK` in the hands of the classifier. -/
theorem witness_CompletingByteWinsOverTheTick_at_timeout :
    after (runCycle (byteAndTick 0x16#8) { receiving 1#4 .lenKnown 14#9 (rsp.take 13) with elapsed := 200#32 })
      (fun t => t.res.code == .ok && t.elapsed == 200#32) = true := by decide

/-- Below the timeout, and at it with the first byte of a frame. -/
theorem witness_ByteIsCountedBeforeTheTickOfItsCycle :
    ∀ ms ∈ [199#32, 200#32],
      let s := { armed 1#4 with elapsed := ms }
      EngineInv s ∧ rxReady s = true ∧ ¬ completesFrame 0x68#8 s ∧ (byteAndTick 0x68#8).linkOpen = s.link ∧
        s.rxHeld ++ [0x68#8] = 0x68#8 :: [] ∧ (s.elapsed + s.cfg.pollMs < s.timeout ↔ ms = 199#32) := by
  intro ms hm
  simp only [List.mem_cons, List.not_mem_nil, or_false] at hm
  rcases hm with rfl | rfl <;>
    exact ⟨engineInv_of_check (by decide), by decide, fun h => by rcases h with h | h <;> simp [armed, receiving] at h,
      rfl, rfl, by decide⟩

/-- One cycle for each clause: `rst` with a byte held, the link falling while sending and while receiving, `tx_err` and
`tx_ready` with a command held, a payload write and a command, the link falling and a command. -/
theorem witness_EventsOfACycleComeInTheirOrder :
    stale.inbox = [] ∧
    ((sending 1#4 poll17 2#9).link = true ∧ (sending 1#4 poll17 2#9).seq ≠ .idle ∧ (sending 1#4 poll17 2#9).seq = .send) ∧
    (stale.link = true ∧ stale.seq ≠ .idle) ∧
    offered.seq = .idle ∧ offered.link = true ∧ offered.cmdPort = 0x1110000000000000000000000000000#124 :: [] ∧
      (249#8).toNat ≤ 249 := by decide

/-- The cycle `rst` of a receiver whose transport holds the acknowledgement: no result (R200). -/
theorem test_cycle_reset_before_held_byte :
    after (step (offerCycle ⟨true, true, false, false, none, false, none, none⟩ stale))
      (fun t => !t.resValid && t.seq == .idle && t.rxHeld == [0xE5#8]) = true := by decide

/-- The link falls in the cycle in which the acknowledgement of `SELECT` could be accepted: `IOError` (R192). -/
theorem test_cycle_link_before_byte :
    after (runCycle ⟨false, false, false, false, none, false, none, none⟩ { stale with op := 3#4 })
      (fun t => t.res.code == .ioError && t.rxs == .awaitFirst && t.rxHeld == [0xE5#8]) = true := by decide

/-- `tx_err` and `pay_we` in one cycle, a `WRITE` of one byte held: the command waits for `cmd_ready` in the next cycle
and its frame carries the byte written (R22, R62). -/
theorem test_cycle_txerr_payload_command :
    after (step (offerCycle ⟨false, true, true, true, none, false, some (0#8, 7#8), none⟩
      { sending 1#4 poll17 2#9 with cmdPort := [0x2050000000000000000000100000000#124] }))
      (fun t => after (step t) (fun u => after (step u) (fun v => after (step v) (fun x =>
        u.seq == .idle && u.txI == 2#9 && v.payload == mem [7#8] && x.seq == .send && x.txbuf.read? 7 == some 7#8)))) =
      true := by decide

/-- A sending and a receiving state that meet the invariant, and a step from each. -/
theorem witness_StepKeepsTheEngineInvariant :
    (EngineInv (facing .txack (sending 1#4 poll17 4#9)) ∧
      after (step (facing .txack (sending 1#4 poll17 4#9))) (fun t => t.seq == .recv) = true) ∧
    EngineInv (facing (.frame rsp) (armed 1#4)) ∧
      after (step (facing (.frame rsp) (armed 1#4))) (fun t => t.res.cls == .rspUd) = true :=
  ⟨⟨engineInv_of_check (by decide), by decide⟩, engineInv_of_check (by decide), by decide⟩

theorem witness_SoundStatesNeverStop : EngineInv (sending 1#4 poll17 0#9) ∧ EngineInv (facing .tick (armed 1#4)) :=
  ⟨engineInv_of_check (by decide), engineInv_of_check (by decide)⟩

/-- `SETTIMEOUT 1000` and a reset each change `TIMEOUT`. -/
theorem witness_OnlySetTimeoutAndResetWriteTheTimeout :
    after (step { State.reset with cmdPort := [0x90000000000000000000000000003E8#124] })
      (fun t => t.timeout != State.reset.timeout) = true ∧
    after (step (facing (.reset false) { State.reset with timeout := 7#32 })) (fun t => t.timeout != 7#32) = true := by
  decide

theorem witness_TheEngineNeverWritesPayload :
    after (step (facing (.paywr 249#8 7#8) State.reset)) (fun t => t.payload != State.reset.payload) = true ∧
    after (step (facing (.reset true) { State.reset with payload := mem [1#8] })) (fun t => t.payload != mem [1#8]) =
      true := by decide

theorem witness_BytesLeaveInBufferOrder :
    EngineInv (facing .txack (sending 1#4 poll17 1#9)) ∧
      after (step (facing .txack (sending 1#4 poll17 1#9))) (fun t => t.tx == [0x10#8, 0x7B#8]) = true ∧
      ∀ l, nextEvent (facing .txack (sending 1#4 poll17 1#9)) ≠ .reset l :=
  ⟨engineInv_of_check (by decide), by decide, fun _ h => Event.noConfusion h⟩

/-- A response byte can be accepted after a whole request. -/
theorem witness_OnlyOneHandshakeAtATime :
    let s := { armed 1#4 with txbuf := mem poll17, txI := 5#9, txLen := 5#9, tx := 0xE5#8 :: poll17 }
    EngineInv s ∧ rxReady s = true := ⟨engineInv_of_check (by decide), by decide⟩

/-- The first and the last byte of a request; a received long frame with its five payload bytes. -/
theorem witness_PortsShowTheirBytes :
    (∀ k ∈ [0#9, 4#9], EngineInv (sending 1#4 poll17 k) ∧ (sending 1#4 poll17 k).seq = .send) ∧
    (let s := { receiving 1#4 .complete 14#9 rsp with seq := .idle, res := results true .rspUd 0b11111#5 }
    EngineInv s ∧ 13 < s.rxn.toNat ∧ 4 < s.res.plen.toNat) := by
  refine ⟨fun k hk => ?_, engineInv_of_check (by decide), by decide⟩
  simp only [List.mem_cons, List.not_mem_nil, or_false] at hk
  rcases hk with rfl | rfl <;> exact ⟨engineInv_of_check (by decide), rfl⟩

/-- A waiting receiver with `n` bytes accumulated, none of them a start byte. -/
def accumulated (n : Nat) : State := { full n with rxbuf := (List.range n).map (fun i => (i, 1#8)) }

/-- `rx_ready` at the boundary of the buffer: high with 260 bytes, low with 261, in states that meet the invariant. -/
theorem witness_PortsShowTheirBytes_rx_ready :
    (EngineInv (accumulated 260) ∧ rxReady (accumulated 260) = true ∧ (accumulated 260).rxn.toNat = 260) ∧
      EngineInv (accumulated 261) ∧ rxReady (accumulated 261) = false ∧ (accumulated 261).rxn.toNat = 261 ∧
      (accumulated 261).seq = .recv ∧ (accumulated 261).rxs = .awaitLen :=
  ⟨⟨engineInv_of_check (by decide +kernel), by decide, by decide⟩, engineInv_of_check (by decide +kernel), by decide,
    by decide, rfl, rfl⟩

end Sys2Proof.Tests
end

/-! PROOFS. The ports of the clocked shell (spec/10_state.md R21) against the events and the registers: what each port
shows, then the two obligations of the family 10_state.md (O55, O56). -/

namespace Sys2Proof.Machine

namespace Ports

open Sys2Proof.Machine.Laws

/-- A run of one event is that event. -/
@[simp] theorem runEvents_singleton (e : Event) (s : State) : runEvents [e] s = onEvent e s := by
  unfold runEvents
  cases onEvent e s <;> rfl

/-! ### The levels -/

/-- `tx_valid` (R143). -/
theorem txValid_iff (s : State) : txValid s = true ↔ s.seq = .send := by simp [txValid]

/-- The three waiting states of the receiver, by name (R125, R127). -/
theorem waiting_iff (x : RxState) : x.waiting = true ↔ x = .awaitFirst ∨ x = .awaitLen ∨ x = .lenKnown := by
  cases x <;> simp [RxState.waiting]

/-- `rx_ready` with its waiting states named (R127). -/
theorem rxReady_iff_states (s : State) :
    rxReady s = true ↔
      s.seq = .recv ∧ (s.rxs = .awaitFirst ∨ s.rxs = .awaitLen ∨ s.rxs = .lenKnown) ∧ s.rxn.toNat < 261 := by
  rw [rxReady_iff, waiting_iff]

/-! ### The transmit port -/

/-- While sending, `tx_data` is the byte the frame holds at `TXI` (R21, R67). -/
theorem read?_txI_of_sendInv {s : State} (h : SendInv s) : s.txbuf.read? s.txI.toNat = some (txData s) := by
  obtain ⟨v, hv⟩ := Option.isSome_iff_exists.mp (h.written _ h.index)
  have hbuf : (s.buffer .txbuf).read? s.txI.toNat = some v := hv
  rw [hv, txData, byteAt_of_read? hbuf]

/-- While sending, `tx_last` is the test by which `E_TXACK` ends the sending: below `TXLEN` the count `TXI + 1` does not
wrap (R21, R143). -/
theorem txLast_iff_of_sendInv {s : State} (h : SendInv s) : txLast s = true ↔ s.txI + 1#9 = s.txLen := by
  have hindex := h.index
  have hlongest := h.longest
  simp only [txLast, beq_iff_eq]
  bv_omega

/-- While sending, `E_TXACK` emits the byte `tx_data` shows, and leads to `SEQ_RECV` exactly on the byte `tx_last`
marks (R143). -/
theorem takeAck_of_sendInv {s : State} (hs : s.seq = .send) (h : SendInv s) :
    ∃ t, takeAck s = .next t ∧ t.tx = s.tx ++ [txData s] ∧ (t.seq = .recv ↔ txLast s = true) := by
  rcases takeAck_cases s with ⟨hn, _⟩ | ⟨_, hout, _⟩ | ⟨_, _, hmore, ht⟩ | ⟨_, _, hlast, ht⟩
  · exact absurd hs hn
  · have hindex := h.index
    have hlongest := h.longest
    exact absurd (show s.txI.toNat < 261 by omega) hout
  · refine ⟨_, ht, rfl, ?_⟩
    simp [txLast_iff_of_sendInv h, hs, hmore]
  · refine ⟨_, ht, rfl, ?_⟩
    simp [txLast_iff_of_sendInv h, hlast]

/-! ### The read port of `RXBUF` -/

/-- At an index that exists `rxb_data` reads the buffer (R21). -/
theorem rxbData_eq_byteAt {s : State} {i : BitVec 9} (h : i.toNat < maxFrame) :
    rxbData s i = s.byteAt .rxbuf i.toNat := if_pos h

/-- An accumulated byte is what `rxb_data` shows at its index (R21, R122). -/
theorem read?_eq_rxbData {s : State} {i : BitVec 9} (hinv : EngineInv s) (hi : i.toNat < s.rxn.toNat) :
    s.rxbuf.read? i.toNat = some (rxbData s i) := by
  obtain ⟨v, hv⟩ := Option.isSome_iff_exists.mp (hinv.receivedWritten _ hi)
  have hbuf : (s.buffer .rxbuf).read? i.toNat = some v := hv
  rw [hv, rxbData_eq_byteAt (Nat.lt_of_lt_of_le hi hinv.receivedCount), byteAt_of_read? hbuf]

/-- Byte `k` of a `MemRead` (R9). -/
theorem bytesAt_getElem? (s : State) (buf : Buffer) (i : Nat) {n k : Nat} (h : k < n) :
    (s.bytesAt buf i n)[k]? = some (s.byteAt buf (i + k)) := by
  simp [State.bytesAt, h]

/-- The payload handed over is what the read port shows from index 7 on, as far as `RXBUF` reaches (R132, R176). -/
theorem deliveredPayload_getElem? {s : State} {k : Nat} (hk : k < s.res.plen.toNat) (hi : 7 + k ≤ 260) :
    (deliveredPayload s)[k]? = some (rxbData s (BitVec.ofNat 9 (7 + k))) := by
  have hidx : (BitVec.ofNat 9 (7 + k)).toNat = 7 + k := Nat.mod_eq_of_lt (by omega)
  have hlt : (BitVec.ofNat 9 (7 + k)).toNat < maxFrame := by rw [hidx]; exact Nat.lt_succ_of_le hi
  rw [deliveredPayload, bytesAt_getElem? s .rxbuf 7 hk, rxbData_eq_byteAt hlt, hidx]

/-! ### The obligations -/

/-- Settles O55, by evaluating the four tables of numbers. -/
theorem portsCarryTheEncodings : Obligations.PortsCarryTheEncodings := ⟨rfl, rfl, rfl, rfl⟩

/-- Settles O56, port by port: the invariant places `TXI` inside a written frame and `RXN` inside written bytes, so the
ports read bytes that stand in the buffers. -/
theorem portsShowTheirBytes : Obligations.PortsShowTheirBytes := by
  intro s hinv
  refine ⟨fun hs => ?_, fun i hi => read?_eq_rxbData hinv hi, bytesAt_length s .rxbuf 7 _,
    fun k hk hi => deliveredPayload_getElem? hk hi, cmdReady_iff s, txValid_iff s, rxReady_iff_states s⟩
  have hsend := hinv.sending hs
  refine ⟨read?_txI_of_sendInv hsend, ?_⟩
  rw [runEvents_singleton]
  exact takeAck_of_sendInv hs hsend

end Ports

end Sys2Proof.Machine

/-! PROOFS. What only the host and the build decide, `PAYLOAD` (spec/20_memory.md R51) and the parameters of
spec/00_scope.md R6: every operation of the engine keeps them, then the obligation of the family 20_memory.md (O58). -/

namespace Sys2Proof.Machine

namespace HostData

open Sys2Proof.Machine.Laws

/-- `t` holds `PAYLOAD` and the build-time parameters as `s` does. -/
structure KeepsHostData (s t : State) : Prop where
  payload : t.payload = s.payload
  cfg : t.cfg = s.cfg

theorem KeepsHostData.refl (s : State) : KeepsHostData s s := ⟨rfl, rfl⟩

theorem KeepsHostData.trans {s t u : State} (h₁ : KeepsHostData s t) (h₂ : KeepsHostData t u) : KeepsHostData s u :=
  ⟨h₂.payload.trans h₁.payload, h₂.cfg.trans h₁.cfg⟩

/-- An operation that starts from `s` with other registers changed keeps what it keeps of them. -/
theorem KeepsHostData.of_start {s u t : State} (h : KeepsHostData u t) (hp : u.payload = s.payload)
    (hc : u.cfg = s.cfg) : KeepsHostData s t := .trans ⟨hp, hc⟩ h

/-! ### Accepting a command -/

theorem muxState_keeps (op : BusOp) (s : State) : KeepsHostData s (muxState op s) := by
  rw [muxState_frame]
  exact ⟨rfl, rfl⟩

theorem startBus_keeps (op : BusOp) (s : State) : KeepsHostData s (startBus op s) := by
  have hmux := muxState_keeps op s
  rcases startBus_cases op s with ⟨_, h⟩ | ⟨_, _, h⟩ | ⟨_, frame, _, h⟩ <;> rw [h]
  · exact ⟨rfl, rfl⟩
  · exact hmux.trans ⟨rfl, rfl⟩
  · exact hmux.trans ⟨rfl, rfl⟩

theorem setTimeout_keeps (tmo : BitVec 32) (s : State) : KeepsHostData s (setTimeout tmo s) := by
  rcases setTimeout_cases tmo s with ⟨_, h⟩ | ⟨_, h⟩ <;> rw [h] <;> exact ⟨rfl, rfl⟩

theorem runOf_keeps (op : BitVec 4) (tmo : BitVec 32) (s : State) : KeepsHostData s (runOf op tmo s) := by
  unfold runOf
  split
  · exact startBus_keeps _ s
  · split
    · exact setTimeout_keeps tmo s
    · exact ⟨rfl, rfl⟩

/-! ### Sending and receiving -/

theorem finish_keeps (s : State) : KeepsHostData s (finish s) := by
  rw [finish_frame]
  exact ⟨rfl, rfl⟩

theorem takeByte_keeps (b : Byte) (s : State) : KeepsHostData s (takeByte b s) := by
  rw [takeByte_frame]
  exact ⟨rfl, rfl⟩

theorem takeTick_keeps (s : State) : KeepsHostData s (takeTick s) := by
  rcases takeTick_cases s with ⟨_, h⟩ | ⟨_, _, h⟩ | ⟨_, _, h⟩ <;> rw [h]
  · exact .refl s
  · exact ⟨rfl, rfl⟩
  · exact (finish_keeps _).of_start rfl rfl

theorem sendFailure_keeps (s : State) : KeepsHostData s (sendFailure s) := by
  rcases sendFailure_cases s with ⟨_, h⟩ | ⟨_, h⟩ <;> rw [h] <;> exact ⟨rfl, rfl⟩

theorem linkLost_keeps (s : State) : KeepsHostData s (linkLost s) := by
  rcases linkLost_cases s with ⟨_, h⟩ | ⟨_, h⟩ | ⟨_, h⟩ <;> rw [h]
  · exact .refl s
  · exact sendFailure_keeps s
  · exact ⟨rfl, rfl⟩

theorem arrive_keeps (bytes : List Byte) (s : State) : KeepsHostData s (arrive bytes s) :=
  feed_induction (P := KeepsHostData s) (fun b _ _ h => h.trans (takeByte_keeps b _))
    (fun _ _ h => h.trans ⟨rfl, rfl⟩) _ _ ⟨rfl, rfl⟩

/-! ### A frame crossing the line -/

/-- An instruction of the line: its encoding is a frame (R88). -/
def IsWireRow (i : Instr) : Prop := ∃ bytes, encode i = some (.wire bytes)

theorem isWireRow_shortRow (cf af cs : Byte) : IsWireRow (shortRow cf af cs) := by
  unfold shortRow
  repeat' split
  all_goals exact ⟨_, rfl⟩

theorem isWireRow_longRow (cf af ci : Byte) (p : List Byte) (cs : Byte) : IsWireRow (longRow cf af ci p cs) := by
  unfold longRow
  repeat' split
  all_goals exact ⟨_, rfl⟩

theorem isWireRow_of_decodeShort {rest : List Byte} {i : Instr} (h : decodeShort rest = .ok i) : IsWireRow i := by
  unfold decodeShort at h
  repeat' split at h
  all_goals cases h
  exact isWireRow_shortRow _ _ _

theorem isWireRow_of_decodeLong {rest : List Byte} {i : Instr} (h : decodeLong rest = .ok i) : IsWireRow i := by
  unfold decodeLong at h
  repeat' split at h
  all_goals cases h
  exact isWireRow_longRow _ _ _ _ _

/-- The frame decoder reads instructions of the line only, told by their start byte (R79). -/
theorem isWireRow_of_decodeWire {bytes : List Byte} {i : Instr} (h : decodeWire bytes = .ok i) : IsWireRow i := by
  unfold decodeWire at h
  split at h
  · cases h
  · split at h
    · split at h <;> cases h
      exact ⟨_, rfl⟩
    · split at h
      · exact isWireRow_of_decodeShort h
      · split at h
        · exact isWireRow_of_decodeLong h
        · cases h

/-- A frame event is a frame crossing the line, whether its bytes decode or not. -/
theorem onFrame_transfers (bytes : List Byte) (s : State) :
    ∃ crossing, onFrame bytes s = transferFrame crossing s := by
  cases hd : decodeWire bytes with
  | error r => exact ⟨bytes, onFrame_error hd s⟩
  | ok i =>
    obtain ⟨crossing, henc⟩ := isWireRow_of_decodeWire hd
    refine ⟨crossing, ?_⟩
    rw [← exec_wire henc]
    unfold onFrame
    rw [hd]

/-! ### The events -/

/-- Every state the answer leads to holds `PAYLOAD` and the parameters as `s` does. -/
def AnswerKeeps (s : State) (a : Answer) : Prop := ∀ t, a = .next t → KeepsHostData s t

theorem answerKeeps_next {s t : State} (h : KeepsHostData s t) : AnswerKeeps s (.next t) := by
  rintro _ ⟨⟩
  exact h

theorem onLink_keeps (level : Bool) (s : State) : AnswerKeeps s (onLink level s) := by
  rcases onLink_cases level s with ⟨_, h⟩ | ⟨_, _, h⟩ | ⟨_, _, h⟩ <;> rw [h] <;> apply answerKeeps_next
  · exact .refl s
  · exact ⟨rfl, rfl⟩
  · exact (linkLost_keeps _).of_start rfl rfl

theorem onAck_keeps (s : State) : AnswerKeeps s (onAck s) := by
  unfold onAck
  rcases takeAck_cases s with ⟨_, h⟩ | ⟨_, _, h⟩ | ⟨_, _, _, h⟩ | ⟨_, _, _, h⟩ <;> rw [h]
  · exact answerKeeps_next (.refl s)
  · rintro _ ⟨⟩
  · exact answerKeeps_next ⟨rfl, rfl⟩
  · exact answerKeeps_next ⟨rfl, rfl⟩

theorem onSendError_keeps (s : State) : AnswerKeeps s (onSendError s) := by
  apply answerKeeps_next
  split
  · exact sendFailure_keeps s
  · exact .refl s

theorem takeHeldByte_keeps (s : State) : AnswerKeeps s (takeHeldByte s) := by
  rcases takeHeldByte_cases s with ⟨_, h⟩ | ⟨_, b, bs, _, h⟩ <;> rw [h] <;> apply answerKeeps_next
  · exact .refl s
  · exact (takeByte_keeps b _).of_start rfl rfl

theorem takeHeldCommand_keeps (s : State) : AnswerKeeps s (takeHeldCommand s) := by
  rcases takeHeldCommand_cases s with ⟨_, h⟩ | ⟨_, w, ws, _, h⟩ <;> rw [h] <;> apply answerKeeps_next
  · exact .refl s
  · exact (runOf_keeps _ _ _).of_start rfl rfl

theorem onFrame_keeps (bytes : List Byte) (s : State) : AnswerKeeps s (onFrame bytes s) := by
  obtain ⟨crossing, h⟩ := onFrame_transfers bytes s
  rw [h]
  apply answerKeeps_next
  split
  · exact ⟨rfl, rfl⟩
  · exact arrive_keeps crossing s

/-- The events that write `PAYLOAD`: `E_PAYWR` at an index of `PAYLOAD`, and a reset (R51, R200). -/
def WritesPayload (e : Event) : Prop := (∃ i v, e = .paywr i v ∧ i.toNat ≤ 249) ∨ ∃ l, e = .reset l

/-- An event that does not write `PAYLOAD` keeps it and the parameters. -/
theorem onEvent_keeps {e : Event} (he : ¬ WritesPayload e) (s : State) : AnswerKeeps s (onEvent e s) := by
  cases e with
  | reset l => exact absurd (.inr ⟨l, rfl⟩) he
  | link level => exact onLink_keeps level s
  | paywr i v =>
    have hout : ¬ i.toNat < maxPayload := fun hi => he (.inl ⟨i, v, rfl, Nat.le_of_lt_succ hi⟩)
    apply answerKeeps_next
    rw [if_neg hout]
    exact .refl s
  | cmd w => exact fun t ht => (takeHeldCommand_keeps (holdCommand w s) t ht).of_start rfl rfl
  | offerCommand => exact takeHeldCommand_keeps s
  | txack => exact onAck_keeps s
  | txerr => exact onSendError_keeps s
  | rxbyte b => exact fun t ht => (takeHeldByte_keeps (holdBytes [b] s) t ht).of_start rfl rfl
  | offerByte => exact takeHeldByte_keeps s
  | tick => exact answerKeeps_next (takeTick_keeps s)
  | frame bytes => exact onFrame_keeps bytes s

/-- The events that write `PAYLOAD` keep the parameters too. -/
theorem onEvent_cfg_of_writesPayload {e : Event} (he : WritesPayload e) {s t : State} (h : onEvent e s = .next t) :
    t.cfg = s.cfg := by
  rcases he with ⟨i, v, rfl, hi⟩ | ⟨l, rfl⟩
  · have hin : i.toNat < maxPayload := Nat.lt_succ_of_le hi
    simp only [onEvent, onPayloadWrite, if_pos hin, Host.Outcome.next.injEq] at h
    rw [← h]
  · cases h
    rfl

/-! ### The obligation -/

/-- Settles O58, by whether the step's event is one that writes `PAYLOAD`. -/
theorem theEngineNeverWritesPayload : Obligations.TheEngineNeverWritesPayload := by
  intro s t hstep
  rw [step_eq] at hstep
  by_cases hw : WritesPayload (nextEvent s)
  · exact ⟨fun _ => hw, onEvent_cfg_of_writesPayload (s := stepBase s) hw hstep⟩
  · obtain ⟨hpayload, hcfg⟩ := onEvent_keeps hw (stepBase s) t hstep
    exact ⟨fun hne => absurd hpayload hne, hcfg⟩

end HostData

end Sys2Proof.Machine

/-! PROOFS. The reserved opcodes of the command word (spec/30_encoding.md R82): they are commands that name no
operation, so accepting one raises `InvalidArgument` in the accepting step (O41). -/

namespace Sys2Proof.Machine

namespace ReservedOpcodes

open Sys2Proof.Machine.Laws

/-- An opcode that names neither a bus operation nor `SETTIMEOUT` (R80, R82). -/
structure IsReserved (op : BitVec 4) : Prop where
  noBusOp : busOpOf op = none
  notSettimeout : op ≠ 0x9#4

/-- A reserved opcode runs nothing but its error, whatever the link and the timeout operand are (R170). -/
theorem runOf_of_isReserved {op : BitVec 4} (h : IsReserved op) (tmo : BitVec 32) (s : State) :
    runOf op tmo s = raise .invalidArgument s := by
  rw [runOf, h.noBusOp]
  exact if_neg h.notSettimeout

/-- Each reserved row is the command of its opcode, and its opcode is reserved. -/
theorem reservedRows_spec (a : Byte) (sc : SecAddr) (n : BitVec 16) (tm : BitVec 32) :
    ∀ r ∈ reservedRows a sc n tm, r.2 = commandOf r.1 a sc n tm ∧ IsReserved r.1 := by
  simp only [reservedRows, List.forall_mem_cons]
  refine ⟨?_, ?_, ?_, ?_, ?_, ?_, ?_, fun _ h => absurd h List.not_mem_nil⟩
  all_goals exact ⟨rfl, rfl, by decide⟩

/-- An error raised on the operands just loaded ends the command in its accepting step (R190). -/
theorem endedAtAcceptance_raise (op : BitVec 4) (a : Byte) (sc : SecAddr) (n : BitVec 16) (code : ResultCode)
    (s : State) : EndedAtAcceptance op a sc n code false s (raise code (loadOperands op a sc n s)) := rfl

/-- Settles O41: a reserved row is accepted as any command is, and all that runs then is its error. -/
theorem reservedOpcodesAreInvalid : Obligations.ReservedOpcodesAreInvalid := by
  intro a sc n tm s hidle r hr
  obtain ⟨hrow, hreserved⟩ := reservedRows_spec a sc n tm r hr
  refine ⟨raise .invalidArgument (loadOperands r.1 a sc n s), ?_, endedAtAcceptance_raise r.1 a sc n _ s⟩
  calc exec r.2 s
    _ = acceptCommand r.1 a sc n tm (runOf r.1 tm) s := by rw [hrow, exec_commandOf]
    _ = .next (runOf r.1 tm (loadOperands r.1 a sc n s)) := acceptCommand_idle hidle ..
    _ = .next (raise .invalidArgument (loadOperands r.1 a sc n s)) := by rw [runOf_of_isReserved hreserved]

end ReservedOpcodes

end Sys2Proof.Machine

/-! PROOFS. The frame codec and checksum calculator (spec/40_frame_codec.md R100 to R103): the checksum is the integer
sum of its bytes modulo 256, the encoders build the frames as R71 and R72 write them, then the obligations of the
family (O8 to O11). -/

namespace Sys2Proof.Machine

namespace FrameCodec

open Sys2Proof.Machine.Laws

/-! ### The sum of bytes -/

@[simp] theorem byteSum_nil : byteSum [] = 0 := rfl

@[simp] theorem byteSum_cons (b : Byte) (bs : List Byte) : byteSum (b :: bs) = b.toNat + byteSum bs := by
  simp only [byteSum, List.map_cons, List.sum_cons]

/-- The sum does not depend on the order of the bytes (R100). -/
theorem byteSum_perm {as bs : List Byte} (h : as.Perm bs) : byteSum as = byteSum bs := (h.map BitVec.toNat).sum_eq

/-- Reducing after every addition is reducing the integer sum once at the end (R100). -/
theorem sum8_eq_ofNat_byteSum (bytes : List Byte) : sum8 bytes = BitVec.ofNat 8 (byteSum bytes % 256) := by
  apply BitVec.eq_of_toNat_eq
  induction bytes with
  | nil => rfl
  | cons b bs ih =>
    rw [sum8_cons, byteSum_cons, BitVec.toNat_add, ih]
    simp only [BitVec.toNat_ofNat]
    omega

/-! ### The encoders -/

/-- The checksum of two integers masked to a byte each is their integer sum masked (R101). -/
theorem sum8_maskByte_pair (x y : Int) : sum8 [maskByte x, maskByte y] = maskByte (x + y) := by
  rw [sum8_cons, sum8_cons, sum8_nil, BitVec.add_zero]
  exact (BitVec.ofInt_add x y).symm

/-- The short frame on masked operands: control field, address, and the low byte of their sum (R101). -/
theorem encShort_maskByte (address controlField : Int) :
    encShort (maskByte address) (maskByte controlField) =
      [0x10#8, maskByte controlField, maskByte address, maskByte (controlField + address), 0x16#8] := by
  rw [encShort, sum8_maskByte_pair, shortBytes]

@[simp] theorem specLongFrame_length (cf af ci : Byte) (p : List Byte) :
    (specLongFrame cf af ci p).length = 9 + p.length := by
  simp only [specLongFrame, List.length_append, List.length_cons, List.length_nil]
  omega

/-- The long frame of R72 is the model's, with the checksum over `CF`, `AF`, `CI` and the payload. -/
theorem longBytes_sum8 (cf af ci : Byte) (p : List Byte) :
    longBytes cf af ci p (sum8 ([cf, af, ci] ++ p)) = specLongFrame cf af ci p := by
  have hsum : byteSum ([cf, af, ci] ++ p) = cf.toNat + af.toNat + ci.toNat + byteSum p := by
    simp only [List.cons_append, List.nil_append, byteSum_cons]
    omega
  rw [sum8_eq_ofNat_byteSum, hsum]
  rfl

theorem encLong_of_le {a cf ci : Byte} {p : List Byte} (h : p.length ≤ 250) :
    encLong a cf ci p = some (specLongFrame cf a ci p) := by
  rw [encLong, if_pos h, longBytes_sum8]

theorem encLong_of_lt {a cf ci : Byte} {p : List Byte} (h : 250 < p.length) : encLong a cf ci p = none :=
  if_neg (Nat.not_le_of_lt h)

/-! ### The unit functions invoked by themselves -/

theorem exec_checksum (bytes : List Byte) (s : State) :
    exec (.checksum bytes) s = .next (answer (.bytes [BitVec.ofNat 8 (byteSum bytes % 256)]) s) := by
  rw [← sum8_eq_ofNat_byteSum]
  rfl

theorem exec_encShort (address controlField : Int) (s : State) :
    exec (.encShort address controlField) s =
      .next (answer (.bytes (encShort (maskByte address) (maskByte controlField))) s) := rfl

theorem exec_encLong_of_some {a cf ci : Byte} {p frame : List Byte} (h : encLong a cf ci p = some frame) (s : State) :
    exec (.encLong a cf ci p) s = .next (answer (.bytes frame) s) := by
  show execEncLong a cf ci p s = _
  rw [execEncLong, h]

theorem exec_encLong_of_none {a cf ci : Byte} {p : List Byte} (h : encLong a cf ci p = none) (s : State) :
    exec (.encLong a cf ci p) s = .next (answer (.failed .payloadTooLarge) s) := by
  show execEncLong a cf ci p s = _
  rw [execEncLong, h]

/-! ### The obligations -/

/-- Settles O8: the checksum is a function of the integer sum, which a permutation keeps. -/
theorem checksumIsTheSumModulo256 : Obligations.ChecksumIsTheSumModulo256 := by
  intro bytes s
  refine ⟨exec_checksum bytes s, fun others hperm => ?_⟩
  rw [exec_checksum, exec_checksum, byteSum_perm hperm]

/-- Settles O9: masking the operands and then adding gives the low byte of their sum. -/
theorem encShortAnswersTheShortFrame : Obligations.EncShortAnswersTheShortFrame := by
  intro address controlField s
  rw [exec_encShort, encShort_maskByte]
  rfl

/-- Settles O10, on each side of the longest payload. -/
theorem encLongAnswersTheLongFrameOrFails : Obligations.EncLongAnswersTheLongFrameOrFails := by
  intro a cf ci p s
  refine ⟨fun hfits => ⟨?_, specLongFrame_length cf a ci p⟩, fun hlarge => ?_⟩
  · exact exec_encLong_of_some (encLong_of_le hfits) s
  · exact exec_encLong_of_none (encLong_of_lt hlarge) s

/-- Settles O11, by the definition of the constant `encSingle`. -/
theorem encSingleAnswersTheSingleCharacter : Obligations.EncSingleAnswersTheSingleCharacter := fun _ => rfl

end FrameCodec

end Sys2Proof.Machine

/-! PROOFS. Sending and the half-duplex line (spec/43_field_mux_and_operations.md R144, R155): how a send-level failure
ends a command, which handshake each state of the sequencer allows, then the obligations of the family (O45, O54). -/

namespace Sys2Proof.Machine

namespace HalfDuplex

open Sys2Proof.Machine.Laws

/-! ### Send-level failures -/

/-- The result registers after a send-level failure: `SCAN` takes it as "a device responded" (R144). -/
def sendFailureResults (s : State) : Results :=
  if s.op = 0x5#4 then { s.res with code := .ok, flag := true } else { s.res with code := .ioError, flag := false }

/-- A send-level failure does nothing but end the command with these results (R144). -/
theorem sendFailure_eq_ended (s : State) : sendFailure s = ended (sendFailureResults s) s := by
  rcases sendFailure_cases s with ⟨hscan, h⟩ | ⟨hother, h⟩
  · have hop : s.op = 0x5#4 := hscan
    rw [h, sendFailureResults, if_pos hop]
  · have hop : s.op ≠ 0x5#4 := hother
    rw [h, sendFailureResults, if_neg hop]

/-- `E_TXERR` while a frame is being sent (R144). -/
theorem onSendError_of_send {s : State} (h : s.seq = .send) :
    onSendError s = .next (ended (sendFailureResults s) s) := by
  rw [onSendError, if_pos h, sendFailure_eq_ended]

/-- `E_TXERR` while none is (R144). -/
theorem onSendError_of_not_send {s : State} (h : s.seq ≠ .send) : onSendError s = .next s := by
  rw [onSendError, if_neg h]

/-- The link closing while a frame is being sent is a send-level failure with `LINK` already low (R144, R156). -/
theorem onLink_close_of_send {s : State} (hs : s.seq = .send) (hl : s.link = true) :
    onLink false s = .next (ended (sendFailureResults s) { s with link := false }) := by
  rcases onLink_cases false s with ⟨hsame, _⟩ | ⟨hopen, _⟩ | ⟨_, _, hclose⟩
  · exact absurd (hsame.trans hl) Bool.false_ne_true
  · exact absurd hopen Bool.false_ne_true
  · have hlost : linkLost { s with link := false } = sendFailure { s with link := false } := by
      rw [linkLost, hs]
    rw [hclose, hlost, sendFailure_eq_ended]
    rfl

/-! ### The handshakes -/

/-- Outside `SEQ_RECV` no response byte is accepted (R127). -/
theorem not_rxReady_of_not_recv {s : State} (h : s.seq ≠ .recv) : rxReady s = false := by
  simp [rxReady, receiverWaits, h]

/-- Each handshake belongs to one state of the sequencer, so no two are high together (R155, R174). -/
theorem handshakes_exclusive (s : State) :
    (txValid s && rxReady s) = false ∧ (cmdReady s && (txValid s || rxReady s)) = false := by
  cases hseq : s.seq with
  | idle =>
    have hrx : rxReady s = false := not_rxReady_of_idle hseq
    simp [txValid, hseq, hrx]
  | send =>
    have hrx : rxReady s = false := not_rxReady_of_not_recv (by simp [hseq])
    simp [cmdReady, hseq, hrx]
  | recv => simp [txValid, cmdReady, hseq]

/-- While receiving, what was emitted is the whole frame that stands in `TXBUF` (R155). -/
theorem request_emitted_of_recvInv {s : State} (h : RecvInv s) :
    ∃ before request : List Byte, s.tx = before ++ request ∧ request.length = s.txLen.toNat ∧
      ∀ i, i < s.txLen.toNat → s.txbuf.read? i = request[i]? := by
  rw [← h.requestSent]
  exact h.emitted

/-! ### The obligations -/

/-- Settles O45: the two events that fail a sending, and `E_TXERR` when nothing is being sent. -/
theorem sendFailureIsIoErrorExceptForScan : Obligations.SendFailureIsIoErrorExceptForScan := by
  intro s
  simp only [Ports.runEvents_singleton]
  exact ⟨fun hs => ⟨onSendError_of_send hs, onLink_close_of_send hs⟩, onSendError_of_not_send⟩

/-- Settles O54: exclusion from `SEQ` alone, and the request on the line from the invariant of `SEQ_RECV`, the only
state with `rx_ready`. -/
theorem onlyOneHandshakeAtATime : Obligations.OnlyOneHandshakeAtATime := by
  refine ⟨handshakes_exclusive, fun s hinv hready => ?_⟩
  obtain ⟨hrecv, _, _⟩ := (rxReady_iff s).mp hready
  exact request_emitted_of_recvInv (hinv.receiving hrecv)

end HalfDuplex

end Sys2Proof.Machine

/-! PROOFS. The session gate (spec/44_session_control.md R172): a bus command reaches the field multiplexer only
through the open check, so with the link closed all that runs is `NotOpen` (O38). -/

namespace Sys2Proof.Machine

namespace SessionGate

open Sys2Proof.Machine.Laws

/-- A bus row is a command accepted with its own opcode, and what it runs is its bus operation (R80, R142). -/
theorem exec_busInstr (op : BusOp) (a : Byte) (sc : SecAddr) (n : BitVec 16) (tm : BitVec 32) (s : State) :
    exec (busInstr op a sc n tm) s = acceptCommand (opcodeOf op) a sc n tm (startBus op) s := by
  cases op <;> rfl

/-- The open check comes before `MUX` and before the length test, so a closed link leaves nothing but the error,
whatever the operation and its payload are (R142, R172). -/
theorem startBus_of_closed {s : State} (h : s.link = false) (op : BusOp) : startBus op s = raise .notOpen s := by
  rcases startBus_cases op s with ⟨_, hclosed⟩ | ⟨hopen, _⟩ | ⟨hopen, _⟩
  · exact hclosed
  · exact absurd (h.symm.trans hopen) Bool.false_ne_true
  · exact absurd (h.symm.trans hopen) Bool.false_ne_true

/-- Settles O38: latching the operands keeps `LINK`, so the open check fails on the state they are loaded into. -/
theorem closedLinkGivesNotOpen : Obligations.ClosedLinkGivesNotOpen := by
  intro op a sc n tm s hidle hclosed
  have hloaded : (loadOperands (opcodeOf op) a sc n s).link = false := hclosed
  refine ⟨raise .notOpen (loadOperands (opcodeOf op) a sc n s), ?_,
    ReservedOpcodes.endedAtAcceptance_raise (opcodeOf op) a sc n .notOpen s⟩
  calc exec (busInstr op a sc n tm) s
    _ = acceptCommand (opcodeOf op) a sc n tm (startBus op) s := exec_busInstr ..
    _ = .next (startBus op (loadOperands (opcodeOf op) a sc n s)) := acceptCommand_idle hidle ..
    _ = .next (raise .notOpen (loadOperands (opcodeOf op) a sc n s)) := by rw [startBus_of_closed hloaded]

end SessionGate

end Sys2Proof.Machine

/-! PROOFS. The two encodings (spec/30_encoding.md): the decoder reads each shape back from its encoder, and whatever it
reads was written by the encoder (O1 to O4). -/

namespace Sys2Proof.Machine

namespace Encodings

open Sys2Proof.Machine.Laws

/-! ### Command words (R80 to R82) -/

theorem decodeCommand_commandWord (op : BitVec 4) (a : Byte) (sc : SecAddr) (n : BitVec 16) (tm : BitVec 32) :
    decodeCommand (commandWord op a sc n tm) = commandOf op a sc n tm := by
  simp only [decodeCommand, cmdOp_commandWord, cmdAddr_commandWord, cmdSec_commandWord, cmdPlen_commandWord,
    cmdTmo_commandWord]

/-- The sixteen opcodes, one by one. -/
theorem opcode_cases {P : BitVec 4 → Prop} (h : ∀ k : Fin 16, P (BitVec.ofFin k)) (op : BitVec 4) : P op := h op.toFin

theorem encode_commandOf (op : BitVec 4) (a : Byte) (sc : SecAddr) (n : BitVec 16) (tm : BitVec 32) :
    encode (commandOf op a sc n tm) = some (.command (commandWord op a sc n tm)) := by
  induction op using opcode_cases with
  | h k => fin_cases k <;> rfl

/-- An instruction that is encoded as a command word is the command of an opcode. -/
theorem exists_commandOf_of_encode {i : Instr} {w : CommandWord} (h : encode i = some (.command w)) :
    ∃ op a sc n tm, i = commandOf op a sc n tm ∧ w = commandWord op a sc n tm := by
  cases i <;> simp only [encode, Option.some.injEq, Code.command.injEq, reduceCtorEq] at h <;> subst h <;>
    exact ⟨_, _, _, _, _, rfl, rfl⟩

/-! ### Short frames (R71, R76) -/

theorem decodeWire_shortBytes (cf af cs : Byte) : decodeWire (shortBytes cf af cs) = .ok (shortRow cf af cs) := rfl

theorem encode_shortRow (cf af cs : Byte) : encode (shortRow cf af cs) = some (.wire (shortBytes cf af cs)) := by
  unfold shortRow
  repeat' split
  all_goals subst_vars; rfl

/-- A control field without a row of its own leaves the general row. -/
theorem shortRow_of_not_own {cf : Byte} (h : shortRowOwn cf = false) (af cs : Byte) :
    shortRow cf af cs = .shortFrame cf af cs := by
  simp only [shortRowOwn, Bool.or_eq_false_iff, beq_eq_false_iff_ne] at h
  obtain ⟨⟨h7B, h5B⟩, h40⟩ := h
  rw [shortRow, if_neg h7B, if_neg h5B, if_neg h40]

theorem eq_shortRow_of_decodeShort {rest : List Byte} {i : Instr} (h : decodeShort rest = .ok i) :
    ∃ cf af cs, 0x10#8 :: rest = shortBytes cf af cs ∧ i = shortRow cf af cs := by
  unfold decodeShort at h
  split at h
  · split at h
    · next cf af cs stop hstop =>
      cases h
      exact ⟨cf, af, cs, by rw [hstop]; rfl, rfl⟩
    · cases h
  · cases h

/-! ### Long frames (R72, R76, R77) -/

/-- The length byte counts the payload and the three fields, as long as it fits (R74). -/
theorem lengthByte_toNat {p : List Byte} (h : p.length ≤ 252) : (lengthByte p).toNat = 3 + p.length :=
  Nat.mod_eq_of_lt (show 3 + p.length < 256 by omega)

theorem decodeWire_longBytes {p : List Byte} (h : p.length ≤ 252) (cf af ci cs : Byte) :
    decodeWire (longBytes cf af ci p cs) = .ok (longRow cf af ci p cs) := by
  have hlen : (lengthByte p).toNat - 3 = p.length := by rw [lengthByte_toNat h]; omega
  have hroom : ¬ (lengthByte p).toNat < 3 := by rw [lengthByte_toNat h]; omega
  show decodeLong (lengthByte p :: lengthByte p :: 0x68#8 :: cf :: af :: ci :: (p ++ [cs, 0x16#8])) = _
  simp only [decodeLong, if_neg hroom, hlen, List.drop_left, List.take_left, ne_eq, not_true_eq_false, if_false,
    if_true]

theorem encode_longRow (cf af ci : Byte) (p : List Byte) (cs : Byte) :
    encode (longRow cf af ci p cs) = some (.wire (longBytes cf af ci p cs)) := by
  unfold longRow
  split
  · next h => obtain ⟨rfl, rfl, _⟩ := h; rfl
  split
  · next h => obtain ⟨rfl, rfl, rfl, _⟩ := h; rfl
  split
  · next h => obtain ⟨rfl, rfl, rfl, _⟩ := h; rfl
  split
  · next h => obtain ⟨rfl, rfl, _⟩ := h; rfl
  split
  · next h => obtain ⟨rfl, rfl, _⟩ := h; rfl
  · rfl

/-- Fields without a row of their own leave the general row. -/
theorem longRow_of_not_own {cf af ci : Byte} {p : List Byte} (h : longRowOwn cf af ci p.length = false) (cs : Byte) :
    longRow cf af ci p cs = .longFrame cf af ci p cs := by
  simp only [longRowOwn, Bool.or_eq_false_iff, Bool.and_eq_false_imp, Bool.and_eq_true, and_imp, beq_iff_eq,
    beq_eq_false_iff_ne, decide_eq_false_iff_not] at h
  obtain ⟨⟨⟨⟨hwrite, hselect⟩, hdeselect⟩, hreadout⟩, hreset⟩ := h
  rw [longRow, if_neg (fun e => hwrite e.1 e.2.1 e.2.2), if_neg (fun e => hselect e.1 e.2.1 e.2.2.1 e.2.2.2),
    if_neg (fun e => hdeselect e.1 e.2.1 e.2.2.1 e.2.2.2), if_neg (fun e => hreadout e.1 e.2.1 e.2.2),
    if_neg (fun e => hreset e.1 e.2.1 e.2.2)]

/-- What stands between the fields and the last two bytes of an accepted long frame is its payload, and the length
byte counts it. -/
theorem payload_of_drop {rest : List Byte} {l cs stop : Byte} (h : rest.drop (l.toNat - 3) = [cs, stop])
    (hl : ¬ l.toNat < 3) :
    rest = rest.take (l.toNat - 3) ++ [cs, stop] ∧ lengthByte (rest.take (l.toNat - 3)) = l := by
  have hlen : rest.length - (l.toNat - 3) = 2 := by simpa using congrArg List.length h
  refine ⟨by rw [← h, List.take_append_drop], ?_⟩
  have htake : 3 + (rest.take (l.toNat - 3)).length = l.toNat := by
    rw [List.length_take]
    omega
  rw [lengthByte, htake, BitVec.ofNat_toNat, BitVec.setWidth_eq]

theorem eq_longRow_of_decodeLong {rest : List Byte} {i : Instr} (h : decodeLong rest = .ok i) :
    ∃ cf af ci p cs, 0x68#8 :: rest = longBytes cf af ci p cs ∧ i = longRow cf af ci p cs := by
  unfold decodeLong at h
  split at h
  · next l l2 start2 cf af ci rest =>
    split at h
    · cases h
    next hl =>
    split at h
    · cases h
    next hl2 =>
    split at h
    · cases h
    next hstart =>
    split at h
    · next cs stop hdrop =>
      split at h
      · next hstop =>
        cases h
        obtain ⟨hrest, hlen⟩ := payload_of_drop hdrop hl
        refine ⟨cf, af, ci, _, cs, ?_, rfl⟩
        rw [longBytes, hlen, Decidable.not_not.mp hl2, Decidable.not_not.mp hstart, ← hstop, List.append_assoc,
          ← hrest]
        rfl
      · cases h
    · cases h
  · cases h

/-! ### All frames (R79) -/

/-- The frame decoder reads a single character, a short row or a long row, each from the bytes of that row. -/
theorem decodeWire_cases {bytes : List Byte} {i : Instr} (h : decodeWire bytes = .ok i) :
    (bytes = encSingle ∧ i = .singleCharacter) ∨
    (∃ cf af cs, bytes = shortBytes cf af cs ∧ i = shortRow cf af cs) ∨
    ∃ cf af ci p cs, bytes = longBytes cf af ci p cs ∧ i = longRow cf af ci p cs := by
  unfold decodeWire at h
  split at h
  · cases h
  next b rest =>
  split at h
  · next hb =>
    split at h <;> cases h
    exact .inl ⟨by rw [hb]; rfl, rfl⟩
  split at h
  · next hb =>
    rw [hb]
    exact .inr (.inl (eq_shortRow_of_decodeShort h))
  split at h
  · next hb =>
    rw [hb]
    exact .inr (.inr (eq_longRow_of_decodeLong h))
  · cases h

/-- A well-formed row of the line is what the frame decoder reads from its bytes. -/
theorem decodeWire_of_encode {i : Instr} {bytes : List Byte} (hwf : WellFormed i = true)
    (h : encode i = some (.wire bytes)) : decodeWire bytes = .ok i := by
  cases i <;>
    simp only [encode, Option.some.injEq, Code.wire.injEq, reduceCtorEq] at h <;> subst h <;>
    simp only [WellFormed, Bool.and_eq_true, Bool.not_eq_true', decide_eq_true_eq, beq_iff_eq, maxPayload] at hwf
  case singleCharacter => rfl
  case shortFrame cf af cs =>
    obtain ⟨_, hown⟩ := hwf
    rw [decodeWire_shortBytes, shortRow_of_not_own hown]
  case longFrame cf af ci p cs =>
    obtain ⟨⟨_, hlen⟩, hown⟩ := hwf
    rw [decodeWire_longBytes hlen, longRow_of_not_own hown]
  case reqUd2Fcb1 => rfl
  case reqUd2Fcb0 => rfl
  case sndNke => rfl
  case sndUdWrite af p cs =>
    rw [decodeWire_longBytes (by omega)]
    simp [longRow, hwf]
  case sndUdSelect p cs =>
    rw [decodeWire_longBytes (by omega)]
    simp [longRow, hwf]
  case sndUdDeselect p cs =>
    rw [decodeWire_longBytes (by omega)]
    simp [longRow, hwf]
  case sndUdReadoutSelection af p cs =>
    rw [decodeWire_longBytes (by omega)]
    simp [longRow, hwf]
  case sndUdReadoutReset af p cs =>
    rw [decodeWire_longBytes (by omega)]
    simp [longRow, hwf]

/-! ### The obligations -/

/-- Settles O1, command words by their fields and frames by their shape. -/
theorem decodeOfEncodeIsIdentity : Obligations.DecodeOfEncodeIsIdentity := by
  intro i c hwf henc
  cases c with
  | command w =>
    obtain ⟨op, a, sc, n, tm, rfl, rfl⟩ := exists_commandOf_of_encode henc
    exact congrArg Except.ok (decodeCommand_commandWord op a sc n tm)
  | wire bytes => exact decodeWire_of_encode hwf henc

/-- Settles O2: a command word is made of its fields, and a frame that decodes is one of the three shapes. -/
theorem encodeOfDecodeIsIdentity : Obligations.EncodeOfDecodeIsIdentity := by
  intro c i h
  cases c with
  | command w =>
    cases h
    rw [decodeCommand, encode_commandOf, commandWord_fields]
  | wire bytes =>
    rcases decodeWire_cases h with ⟨rfl, rfl⟩ | ⟨cf, af, cs, rfl, rfl⟩ | ⟨cf, af, ci, p, cs, rfl, rfl⟩
    · rfl
    · exact encode_shortRow cf af cs
    · exact encode_longRow cf af ci p cs

/-- Settles O3: decoding goes by `cmd_op`, and the command of each opcode is its row. -/
theorem everyOpcodeNamesItsCommand : Obligations.EveryOpcodeNamesItsCommand := by
  intro a sc n tm
  simp only [decodeCommand_commandWord]
  refine ⟨fun op => ?_, rfl, fun r hr => ?_⟩
  · cases op <;> rfl
  · exact (ReservedOpcodes.reservedRows_spec a sc n tm r hr).1.symm

/-- Settles O4, by running the decoder on the six words. -/
theorem wordsOfTheSpecDecode : Obligations.WordsOfTheSpecDecode := ⟨rfl, rfl, rfl, rfl, rfl, rfl⟩

end Encodings

end Sys2Proof.Machine

/-! PROOFS. The response receiver (spec/42_response_receiver.md): each row of its table as an equation of `RX_BYTE`, the
tick, the classifier, then the obligations that need no invariant (O16, O17, O19 to O22). -/

namespace Sys2Proof.Machine

namespace Receiver

open Sys2Proof.Machine.Laws

/-! ### The rows of `RX_BYTE` (R120, R122) -/

/-- The byte memory `RXBUF` after a byte was stored. -/
theorem read?_storeByte (b : Byte) (s : State) (i : Nat) :
    (storeByte b s).rxbuf.read? i = if i = s.rxn.toNat then some b else s.rxbuf.read? i := read?_write _ _ _ _

/-- Below the accumulated bytes nothing is overwritten. -/
theorem byteAt_storeByte_of_lt {s : State} {i : Nat} (b : Byte) (h : i < s.rxn.toNat) :
    (storeByte b s).byteAt .rxbuf i = s.byteAt .rxbuf i := by
  have hread : (storeByte b s).rxbuf.read? i = s.rxbuf.read? i := by
    rw [read?_storeByte, if_neg (Nat.ne_of_lt h)]
  exact congrArg (Option.getD · _) hread

/-- Below 511 the count of accumulated bytes does not wrap. -/
theorem rxn_succ_toNat {s : State} (h : s.rxn.toNat < 511) : (s.rxn + 1#9).toNat = s.rxn.toNat + 1 := by bv_omega

/-- The state in which a completed frame is finished: the byte stored, its count the expected length, the frame
classified (R122). -/
def completed (b : Byte) (s : State) : State :=
  classify { storeByte b s with rxexp := s.rxn + 1#9, rxs := .complete }

/-- All that completing a frame changes before it is finished. -/
theorem completed_frame (b : Byte) (s : State) :
    completed b s =
      { storeByte b s with rxexp := s.rxn + 1#9, rxs := .complete, res := (completed b s).res } := classify_frame _

/-- The classifier leaves the code, the flag and the address mismatch, and its class is one of three. -/
theorem completed_results (b : Byte) (s : State) :
    (completed b s).res.code = s.res.code ∧ (completed b s).res.flag = s.res.flag ∧
      (completed b s).res.afmis = s.res.afmis ∧
      ((completed b s).res.cls = .single ∨ (completed b s).res.cls = .rspUd ∨ (completed b s).res.cls = .malformed) :=
  classify_results _

@[simp] theorem completed_rxs (b : Byte) (s : State) : (completed b s).rxs = .complete := by rw [completed_frame]

@[simp] theorem completed_op (b : Byte) (s : State) : (completed b s).op = s.op := by
  rw [completed_frame]
  rfl

@[simp] theorem completed_addr (b : Byte) (s : State) : (completed b s).addr = s.addr := by
  rw [completed_frame]
  rfl

@[simp] theorem completed_fcb (b : Byte) (s : State) : (completed b s).fcb = s.fcb := by
  rw [completed_frame]
  rfl

/-- A byte continues the receive with what it taught about the length, or it completes the frame (R122). -/
theorem takeByte_cases (b : Byte) (s : State) :
    takeByte b s = learnLength b (storeByte b s) ∨ takeByte b s = finishComplete (completed b s) := by
  rcases checkComplete_cases (learnLength b (storeByte b s)) with ⟨_, h⟩ | ⟨⟨_, hlen⟩, h⟩
  · exact .inl h
  · refine .inr (h.trans ?_)
    rw [learnLength_frame] at hlen ⊢
    have hexp : (learnLength b (storeByte b s)).rxexp = s.rxn + 1#9 := hlen.symm
    rw [hexp, finish_complete (by rw [classify_frame])]
    rfl

/-- The test that ends a receive (R122). -/
theorem takeByte_of_checks {b : Byte} {s : State}
    (h : (learnLength b (storeByte b s)).rxs = .lenKnown ∧ (learnLength b (storeByte b s)).rxexp = s.rxn + 1#9) :
    takeByte b s = finishComplete (completed b s) := by
  obtain ⟨hrxs, hexp⟩ := h
  rcases checkComplete_cases (learnLength b (storeByte b s)) with ⟨hno, _⟩ | ⟨_, h⟩
  · refine absurd ⟨hrxs, ?_⟩ hno
    rw [hexp, learnLength_frame]
    rfl
  · refine h.trans ?_
    rw [learnLength_frame, hexp, finish_complete (by rw [classify_frame])]
    rfl

theorem takeByte_of_not_checks {b : Byte} {s : State}
    (h : (learnLength b (storeByte b s)).rxs = .lenKnown → (learnLength b (storeByte b s)).rxexp ≠ s.rxn + 1#9) :
    takeByte b s = learnLength b (storeByte b s) := by
  rcases checkComplete_cases (learnLength b (storeByte b s)) with ⟨_, hsame⟩ | ⟨⟨hrxs, hlen⟩, _⟩
  · exact hsame
  · refine absurd ?_ (h hrxs)
    rw [← hlen, learnLength_frame]
    rfl

/-- The length rule by the receiver's state (R122). -/
theorem learnLength_awaitFirst {s : State} (h : s.rxs = .awaitFirst) (b : Byte) :
    learnLength b s =
      if b = 0xE5#8 then { s with rxexp := 1#9, rxs := .lenKnown } else { s with rxs := .awaitLen } := by
  rw [learnLength, h]

theorem learnLength_awaitLen {s : State} (h : s.rxs = .awaitLen) (b : Byte) :
    learnLength b s =
      if s.byteAt .rxbuf 0 = 0x68#8 then { s with rxexp := b.zeroExtend 9 + 6#9, rxs := .lenKnown } else s := by
  rw [learnLength, h]

theorem learnLength_lenKnown {s : State} (h : s.rxs = .lenKnown) (b : Byte) : learnLength b s = s := by
  rw [learnLength, h]

/-- The row of a completing byte. -/
theorem takeByte_completes {b : Byte} {s : State} (h : completesFrame b s) :
    takeByte b s = finishComplete (completed b s) := by
  apply takeByte_of_checks
  rcases h with ⟨hrxs, hrxn, hb⟩ | ⟨hrxs, hlen⟩
  · rw [learnLength_awaitFirst (s := storeByte b s) hrxs, if_pos hb, hrxn]
    exact ⟨rfl, rfl⟩
  · rw [learnLength_lenKnown (s := storeByte b s) hrxs]
    exact ⟨hrxs, hlen.symm⟩

/-- The row of a first byte other than `E5`. -/
theorem takeByte_start {b : Byte} {s : State} (hrxs : s.rxs = .awaitFirst) (hb : b ≠ 0xE5#8) :
    takeByte b s = { storeByte b s with rxs := .awaitLen } := by
  have hlearn : learnLength b (storeByte b s) = { storeByte b s with rxs := .awaitLen } := by
    rw [learnLength_awaitFirst (s := storeByte b s) hrxs, if_neg hb]
  rw [takeByte_of_not_checks (by simp [hlearn]), hlearn]

/-- The row of a byte behind an unknown start byte. -/
theorem takeByte_unknown {b : Byte} {s : State} (hrxs : s.rxs = .awaitLen) (hpos : 0 < s.rxn.toNat)
    (hstart : s.byteAt .rxbuf 0 ≠ 0x68#8) : takeByte b s = storeByte b s := by
  have hlearn : learnLength b (storeByte b s) = storeByte b s := by
    rw [learnLength_awaitLen (s := storeByte b s) hrxs, byteAt_storeByte_of_lt b hpos, if_neg hstart]
  rw [takeByte_of_not_checks (by simp [hlearn, hrxs]), hlearn]

/-- The row of the length byte, the frame not ending with it. -/
theorem takeByte_length {b : Byte} {s : State} (hrxs : s.rxs = .awaitLen) (hpos : 0 < s.rxn.toNat)
    (hstart : s.byteAt .rxbuf 0 = 0x68#8) (hmore : b.zeroExtend 9 + 6#9 ≠ s.rxn + 1#9) :
    takeByte b s = { storeByte b s with rxexp := b.zeroExtend 9 + 6#9, rxs := .lenKnown } := by
  have hlearn : learnLength b (storeByte b s) =
      { storeByte b s with rxexp := b.zeroExtend 9 + 6#9, rxs := .lenKnown } := by
    rw [learnLength_awaitLen (s := storeByte b s) hrxs, byteAt_storeByte_of_lt b hpos, if_pos hstart]
  rw [takeByte_of_not_checks (by rw [hlearn]; exact fun _ => hmore), hlearn]

/-- The row of a byte of a frame of known length, other than its last. -/
theorem takeByte_known {b : Byte} {s : State} (hrxs : s.rxs = .lenKnown) (hmore : s.rxn + 1#9 ≠ s.rxexp) :
    takeByte b s = storeByte b s := by
  have hlearn := learnLength_lenKnown (s := storeByte b s) hrxs b
  rw [takeByte_of_not_checks (by rw [hlearn]; exact fun _ => hmore.symm), hlearn]

/-- A completing byte ends a bus operation by the outcome table. -/
theorem takeByte_ends {b : Byte} {s : State} {op : BusOp} (h : completesFrame b s) (hop : busOpOf s.op = some op) :
    takeByte b s =
      ended (completeResults op s.addr (completed b s).res) (completeFcb op (completed b s)) := by
  rw [takeByte_completes h, finishComplete_some (by rw [completed_op, hop]), completed_addr]

/-- The meaning of RX_BYTE on an accepted byte, and on a byte that stays with the transport (R122, R127). -/
theorem exec_rxByte_ready {s : State} (h : rxReady s = true) (b : Byte) : exec (.rxByte b) s = .next (takeByte b s) :=
  congrArg Host.Outcome.next (if_pos h)

theorem exec_rxByte_blocked {s : State} (h : rxReady s = false) (b : Byte) :
    exec (.rxByte b) s = .next (holdBytes [b] s) :=
  congrArg Host.Outcome.next (if_neg (by simp [h]))

/-! ### The outcome table (R145, R157) -/

/-- The registers at the end of an operation are the classifier's, with the outcome's code and flag, and with the
address mismatch of an accepted poll. -/
theorem completeResults_eq (op : BusOp) (addr : Byte) (r : Results) :
    completeResults op addr r = { r with
      code := (outcomeOf op r.cls).1
      flag := (outcomeOf op r.cls).2
      afmis := if op = .poll ∧ r.cls = .rspUd then decide (r.af ≠ addr) else r.afmis } := by
  have acknowledged : (if r.cls = .single then { r with code := .ok, flag := true }
        else { r with code := .unexpectedMessageType, flag := false }) =
      { r with
        code := (if r.cls = .single then (ResultCode.ok, true) else (.unexpectedMessageType, false)).1
        flag := (if r.cls = .single then (ResultCode.ok, true) else (.unexpectedMessageType, false)).2 } := by
    split <;> rfl
  have reported : (r.cls == .single) = decide (r.cls = .single) := rfl
  cases op with
  | poll => by_cases h : r.cls = .rspUd <;> simp [completeResults, outcomeOf, h]
  | write => simp [completeResults, outcomeOf, reported]
  | scan => simp [completeResults, outcomeOf, reported]
  | select => simpa [completeResults, outcomeOf] using acknowledged
  | deselect => simpa [completeResults, outcomeOf] using acknowledged
  | selro => simpa [completeResults, outcomeOf] using acknowledged
  | rstro => simpa [completeResults, outcomeOf] using acknowledged
  | linkreset => simpa [completeResults, outcomeOf] using acknowledged

/-- The frame count bits at the end of an operation: an acknowledged link reset sets its latch (R153). -/
theorem fcbBit_completeFcb (op : BusOp) (s : State) (a : Byte) :
    fcbBit (completeFcb op s) a =
      if op = .linkreset ∧ s.res.cls = .single ∧ a = s.addr then true else fcbBit s a := by
  by_cases h : op = .linkreset ∧ s.res.cls = .single
  · rw [completeFcb, if_pos h, fcbBit_fcbSetOne]
    simp [h]
  · rw [completeFcb, if_neg h, if_neg (fun e => h ⟨e.1, e.2.1⟩)]

theorem completeFcb_frame (op : BusOp) (s : State) : completeFcb op s = { s with fcb := (completeFcb op s).fcb } := by
  unfold completeFcb
  split <;> rfl

/-! ### The tick (R125) -/

/-- `RES_CODE` when the timeout is reached: with no byte a scan found nobody and every other operation timed out; with
some bytes the message is incomplete (R145). -/
def expiryCode (s : State) : ResultCode :=
  if s.rxn = 0#9 then (if s.op = 0x5#4 then .ok else .timeout) else .incompleteMessage

/-- The state at the timeout: the operation has ended and `RXS` tells whether there was a byte. -/
def expired (s : State) : State :=
  ended { s.res with code := expiryCode s, flag := false }
    { s with elapsed := s.elapsed + s.cfg.pollMs, rxs := if s.rxn = 0#9 then .timedOut else .incomplete }

theorem takeTick_idle {s : State} (h : receiverWaits s = false) : takeTick s = s := by
  rw [takeTick, if_neg (by simp [h])]

theorem takeTick_counts {s : State} (hw : receiverWaits s = true) (h : s.elapsed + s.cfg.pollMs < s.timeout) :
    takeTick s = { s with elapsed := s.elapsed + s.cfg.pollMs } := by
  rcases takeTick_cases s with ⟨hn, _⟩ | ⟨_, _, ht⟩ | ⟨_, hle, _⟩
  · exact absurd (hw.symm.trans hn) (by simp)
  · exact ht
  · exact absurd h (BitVec.not_lt.mpr hle)

theorem takeTick_expires {s : State} (hw : receiverWaits s = true) (h : s.timeout ≤ s.elapsed + s.cfg.pollMs) :
    takeTick s = expired s := by
  rcases takeTick_cases s with ⟨hn, _⟩ | ⟨_, hlt, _⟩ | ⟨_, _, ht⟩
  · exact absurd (hw.symm.trans hn) (by simp)
  · exact absurd h hlt
  · rw [ht, expired, expiryCode]
    by_cases hrxn : s.rxn = 0#9
    · simp only [if_pos hrxn]
      rw [finish_timedOut rfl]
      show (if s.op = 0x5#4 then _ else _) = _
      split <;> rfl
    · simp only [if_neg hrxn]
      rw [finish_incomplete rfl]

/-- Outside `SEQ_RECV` a tick does nothing. -/
theorem takeTick_of_idle {s : State} (h : s.seq = .idle) : takeTick s = s :=
  takeTick_idle (by simp [receiverWaits, h])

/-- One increment more. -/
theorem ofNat_mul_add_self (k : Nat) (p : BitVec 32) :
    BitVec.ofNat 32 (k * p.toNat) + p = BitVec.ofNat 32 ((k + 1) * p.toNat) := by
  rw [Nat.succ_mul, BitVec.ofNat_add, BitVec.ofNat_toNat, BitVec.setWidth_eq]

/-- Before the timeout `k` ticks add `k` times the increment to `ELAPSED`, and nothing wraps. -/
theorem runInstrs_ticks {s : State} (hw : receiverWaits s = true) (h0 : s.elapsed = 0#32) (k : Nat)
    (hk : k * s.cfg.pollMs.toNat < s.timeout.toNat) (tail : List Instr) :
    runInstrs (List.replicate k .rxTick ++ tail) s =
      runInstrs tail { s with elapsed := BitVec.ofNat 32 (k * s.cfg.pollMs.toNat) } := by
  induction k generalizing tail with
  | zero => rw [Nat.zero_mul, ← h0]; rfl
  | succ k ih =>
    have hprev : k * s.cfg.pollMs.toNat < s.timeout.toNat := by rw [Nat.succ_mul] at hk; omega
    rw [List.replicate_succ', List.append_assoc, ih hprev]
    have hlt : BitVec.ofNat 32 ((k + 1) * s.cfg.pollMs.toNat) < s.timeout := by
      rw [BitVec.lt_def, BitVec.toNat_ofNat, Nat.mod_eq_of_lt (by have := s.timeout.isLt; omega)]
      exact hk
    rw [← ofNat_mul_add_self] at hlt ⊢
    exact congrArg (fun t => runInstrs tail t)
      (takeTick_counts (s := { s with elapsed := BitVec.ofNat 32 (k * s.cfg.pollMs.toNat) }) hw hlt)

/-- `⌈t / p⌉` ticks of `p` reach `t`, one fewer does not, and the overshoot is below one tick. -/
theorem ceilDiv_bounds {t p : Nat} (hp : 1 ≤ p) :
    (∀ k, k < (t + p - 1) / p → k * p < t) ∧ t ≤ (t + p - 1) / p * p ∧ (t + p - 1) / p * p ≤ t + p - 1 := by
  have hdiv := Nat.div_add_mod (t + p - 1) p
  have hmod := Nat.mod_lt (t + p - 1) hp
  rw [Nat.mul_comm] at hdiv
  refine ⟨fun k hk => ?_, by omega, by omega⟩
  have hmul : (k + 1) * p ≤ (t + p - 1) / p * p := Nat.mul_le_mul_right p hk
  rw [Nat.succ_mul] at hmul
  omega

/-! ### The classifier (R130, R131) -/

/-- Five bits in a row: each at its place, and all of them 1 exactly when each is. -/
theorem fiveBits (c4 c3 c2 c1 c0 : Bool) :
    let v := BitVec.ofBool c4 ++ BitVec.ofBool c3 ++ BitVec.ofBool c2 ++ BitVec.ofBool c1 ++ BitVec.ofBool c0
    (v.getLsbD 0 = c0 ∧ v.getLsbD 1 = c1 ∧ v.getLsbD 2 = c2 ∧ v.getLsbD 3 = c3 ∧ v.getLsbD 4 = c4) ∧
      (v = 0b11111#5 ↔ (c0 && (c1 && c2 && c3 && c4)) = true) := by
  revert c4 c3 c2 c1 c0
  decide

/-- Bit `k` of `RES_INTEG` is check `k`. -/
theorem integrity_bits (s : State) :
    (integrity s).getLsbD 0 = integLength s ∧ (integrity s).getLsbD 1 = integRepeat s ∧
      (integrity s).getLsbD 2 = integStart s ∧ (integrity s).getLsbD 3 = integStop s ∧
      (integrity s).getLsbD 4 = integSum s := (fiveBits _ _ _ _ _).1

/-- All bits of `RES_INTEG` are 1 exactly when every check passes. -/
theorem integrity_eq_allOnes_iff (s : State) :
    integrity s = 0b11111#5 ↔
      (integLength s && (integRepeat s && integStart s && integStop s && integSum s)) = true := (fiveBits _ _ _ _ _).2

/-- A single character is classified by its length alone. -/
theorem classify_single {s : State} (h : s.rxn = 1#9) : classify s = { s with res := { s.res with cls := .single } } :=
  if_pos h

/-- Every other frame is classified by its checks. -/
theorem classify_long {s : State} (h : s.rxn ≠ 1#9) :
    classify s = { s with
      res := { latchFields s s.res with
        integ := integrity s, cls := if acceptsLong s then .rspUd else .malformed } } :=
  if_neg h

/-- The class of a long frame in the words of R130. -/
theorem acceptsLong_iff (s : State) :
    acceptsLong s = true ↔
      3 ≤ (s.byteAt .rxbuf 1).toNat ∧ (s.cfg.rxIntegrityCheck = false ∨ integrity s = 0b11111#5) := by
  have hlen : integLength s = true ↔ 3 ≤ (s.byteAt .rxbuf 1).toNat := by simp [integLength]
  rw [integrity_eq_allOnes_iff, ← hlen, acceptsLong]
  cases integLength s <;> cases s.cfg.rxIntegrityCheck <;> simp

theorem latchFields_of_le {s : State} (h : 3 ≤ (s.byteAt .rxbuf 1).toNat) (r : Results) :
    latchFields s r = { r with
      cf := s.byteAt .rxbuf 4, af := s.byteAt .rxbuf 5, ci := s.byteAt .rxbuf 6,
      plen := s.byteAt .rxbuf 1 - 3#8 } :=
  if_pos (decide_eq_true h)

theorem latchFields_of_lt {s : State} (h : (s.byteAt .rxbuf 1).toNat < 3) (r : Results) : latchFields s r = r :=
  if_neg (by simp [integLength]; omega)

/-! ### The obligations -/

/-- Settles O16, by the definition of `armReceiver`. -/
theorem rxArmStartsAReceive : Obligations.RxArmStartsAReceive := fun _ => rfl

/-- Settles O17: what an accepted byte can change, and that a refused one is held. -/
theorem rxByteStoresTheByteOrLeavesIt : Obligations.RxByteStoresTheByteOrLeavesIt := by
  intro b s
  refine ⟨fun hready => ⟨takeByte b s, exec_rxByte_ready hready b, fun i => ?_, ?_⟩,
    fun hblocked => exec_rxByte_blocked hblocked b⟩
  · rw [takeByte_frame]
    exact read?_write _ _ _ _
  · have hbuf : (takeByte b s).rxbuf = s.rxbuf.write s.rxn.toNat b := by rw [takeByte_frame]
    rw [hbuf]
    exact takeByte_frame b s

/-- Settles O19, from the row of a completing byte and the outcome table. -/
theorem completeFrameEndsTheOperation : Obligations.CompleteFrameEndsTheOperation := by
  intro b op s hready hop hcompletes
  refine ⟨takeByte b s, classify (storeByte b s), exec_rxByte_ready hready b, ?_, ?_, ?_, ?_, ?_⟩
  · have hbuf : (takeByte b s).rxbuf = s.rxbuf.write s.rxn.toNat b := by rw [takeByte_frame]
    rw [hbuf]
    rfl
  all_goals rw [takeByte_ends hcompletes hop]
  · have hres : (completed b s).res = (classify (storeByte b s)).res := by
      unfold completed classify
      split <;> rfl
    obtain ⟨_, _, hafmis, _⟩ := completed_results b s
    rw [← hres, completeResults_eq, hafmis]
    rfl
  · intro a
    have hbits : fcbBit (completed b s) a = fcbBit s a := fcbBit_congr a (completed_fcb b s)
    have hcls : (completeResults op s.addr (completed b s).res).cls = (completed b s).res.cls := by
      rw [completeResults_eq]
    show fcbBit (completeFcb op (completed b s)) a =
      if op = .linkreset ∧ (completeResults op s.addr (completed b s).res).cls = .single ∧ a = s.addr then _ else _
    rw [hcls, fcbBit_completeFcb, completed_addr, hbits]
  · intro i
    rw [completeFcb_frame, completed_frame]
    exact read?_write _ _ _ _
  · rw [completeFcb_frame, completed_frame]
    rfl

/-- Settles O20, by the three things a tick can do. -/
theorem rxTickCountsAndExpires : Obligations.RxTickCountsAndExpires := fun _ =>
  ⟨fun hw => congrArg Host.Outcome.next (takeTick_idle hw),
    fun hw hlt => congrArg Host.Outcome.next (takeTick_counts hw hlt),
    fun hw hle => congrArg Host.Outcome.next (takeTick_expires hw hle)⟩

/-- Settles O21: all ticks but the last only count, and the last one expires. -/
theorem timeoutTakesItsNumberOfTicks : Obligations.TimeoutTakesItsNumberOfTicks := by
  intro s hw h0 htpos htmax hppos hpmax ticks
  obtain ⟨hbefore, hreach, hover⟩ := ceilDiv_bounds (t := s.timeout.toNat) hppos
  refine ⟨fun k hk => ?_, ?_⟩
  · rw [← List.append_nil (List.replicate k _), runInstrs_ticks hw h0 k (hbefore k hk)]
    rfl
  obtain ⟨k, hk⟩ : ∃ k, ticks = k + 1 := Nat.exists_eq_succ_of_ne_zero fun hz => by
    have : s.timeout.toNat ≤ ticks * s.cfg.pollMs.toNat := hreach
    rw [hz] at this
    omega
  have hlast : s.timeout.toNat ≤ (k + 1) * s.cfg.pollMs.toNat := hk ▸ hreach
  have hbound : (k + 1) * s.cfg.pollMs.toNat ≤ s.timeout.toNat + s.cfg.pollMs.toNat - 1 := hk ▸ hover
  have helapsed : (BitVec.ofNat 32 ((k + 1) * s.cfg.pollMs.toNat)).toNat = (k + 1) * s.cfg.pollMs.toNat := by
    rw [BitVec.toNat_ofNat]
    exact Nat.mod_eq_of_lt (by omega)
  refine ⟨expired { s with elapsed := BitVec.ofNat 32 (k * s.cfg.pollMs.toNat) }, ?_, rfl, rfl, ?_, rfl, rfl⟩
  · rw [hk, List.replicate_succ', runInstrs_ticks hw h0 k (hbefore k (by omega))]
    refine congrArg Host.Outcome.next (takeTick_expires hw ?_)
    show s.timeout ≤ BitVec.ofNat 32 (k * s.cfg.pollMs.toNat) + s.cfg.pollMs
    rw [ofNat_mul_add_self, BitVec.le_def, helapsed]
    exact hlast
  · show (BitVec.ofNat 32 (k * s.cfg.pollMs.toNat) + s.cfg.pollMs).toNat = ticks * _
    rw [ofNat_mul_add_self, helapsed, hk]

/-- Settles O22: the single character, and the checks and fields of every other frame. -/
theorem classifierComputesTheFiveChecks : Obligations.ClassifierComputesTheFiveChecks := by
  intro s
  refine ⟨classify s, rfl, classify_frame s, fun hsingle => by rw [classify_single hsingle], fun hlong => ?_⟩
  intro l sum
  obtain ⟨hcode, hflag, hafmis, _⟩ := classify_results s
  obtain ⟨hbit0, hbit1, hbit2, hbit3, hbit4⟩ := integrity_bits s
  have hsum : sum8 (s.bytesAt .rxbuf 4 l) = sum := FrameCodec.sum8_eq_ofNat_byteSum _
  have hinteg : (classify s).res.integ = integrity s := by rw [classify_long hlong]
  rw [hinteg]
  refine ⟨hbit0, hbit1, hbit2, hbit3, ?_, fun hl => ?_, fun hl => ?_, ?_, hcode, hflag, hafmis⟩
  · rw [hbit4, integSum, hsum]
    rfl
  · rw [classify_long hlong, latchFields_of_le hl]
    have hl' : 3 ≤ (s.byteAt .rxbuf 1).toNat := hl
    exact ⟨rfl, rfl, rfl, by show (s.byteAt .rxbuf 1 - 3#8).toNat = _; bv_omega⟩
  · rw [classify_long hlong, latchFields_of_lt hl]
    exact ⟨rfl, rfl, rfl, rfl⟩
  · rw [classify_long hlong]
    simp only [acceptsLong_iff]
    rfl

end Receiver

end Sys2Proof.Machine

/-! PROOFS. What one step can do (spec/00_scope.md R10), said once as a relation with a case per transition of the
engine. The obligations that ask which events bring about a change are read off its cases (O5 to O7, O15, O57). -/

namespace Sys2Proof.Machine

namespace Transitions

open Sys2Proof.Machine.Laws

/-! ### An accepted command (R142, R170) -/

/-- Only a frame with a host payload can be too long to build, and such a row of `MUX` changes no latch. -/
theorem muxState_of_buildFrame_none {op : BusOp} {s : State}
    (h : buildFrame (muxFields op s) (muxState op s) = none) : muxState op s = s := by
  cases op with
  | poll => cases h
  | _ => rfl

/-- A positive number, as `SETTIMEOUT` tests it and as two's complement reads it (R171). -/
theorem toInt_pos_iff (x : BitVec 32) : 0 < x.toInt ↔ (x.msb || x == 0#32) = false := by
  rw [Bool.or_eq_false_iff, beq_eq_false_iff_ne, BitVec.msb_eq_false_iff_two_mul_lt, BitVec.toInt_eq_toNat_cond, ne_eq,
    ← BitVec.toNat_inj]
  have hlt := x.isLt
  simp only [BitVec.toNat_ofNat]
  split <;> omega

/-- Everything an accepted command can do after its operands are loaded: end at once with an error, write `TIMEOUT`, or
begin to send a frame of 5 to 259 bytes. -/
inductive Accepted (op : BitVec 4) (tmo : BitVec 32) (s : State) : State → Prop
  | failed (code : ResultCode) (hcode : code = .notOpen ∨ code = .payloadTooLarge ∨ code = .invalidArgument) :
      Accepted op tmo s (raise code s)
  | timeoutSet (hop : op = 0x9#4) (hpos : 0 < tmo.toInt) : Accepted op tmo s (complete true { s with timeout := tmo })
  | frameLoaded (bus : BusOp) (frame : List Byte) (hop : busOpOf op = some bus) (hlink : s.link = true)
      (hframe : buildFrame (muxFields bus s) (muxState bus s) = some frame) :
      Accepted op tmo s (loadFrame frame (muxState bus s))

theorem accepted_runOf (op : BitVec 4) (tmo : BitVec 32) (s : State) : Accepted op tmo s (runOf op tmo s) := by
  unfold runOf
  split
  · next bus hop =>
    rcases startBus_cases bus s with ⟨_, h⟩ | ⟨_, hnone, h⟩ | ⟨hlink, frame, hframe, h⟩ <;> rw [h]
    · exact .failed _ (.inl rfl)
    · rw [muxState_of_buildFrame_none hnone]
      exact .failed _ (.inr (.inl rfl))
    · exact .frameLoaded bus frame hop hlink hframe
  · split
    · next hop =>
      rcases setTimeout_cases tmo s with ⟨_, h⟩ | ⟨hpos, h⟩ <;> rw [h]
      · exact .failed _ (.inr (.inr rfl))
      · exact .timeoutSet hop ((toInt_pos_iff tmo).mpr hpos)
    · exact .failed _ (.inr (.inr rfl))

/-! ### An event -/

/-- The command words at the port in the moment of an event that offers one (R174). -/
def wordsOffered (e : Event) (s : State) : List CommandWord :=
  match e with
  | .cmd w => s.cmdPort ++ [w]
  | .offerCommand => s.cmdPort
  | _ => []

/-- The word a step accepts is the first one offered by its event. -/
theorem acceptedWord_eq {s : State} {w : CommandWord} {ws : List CommandWord} (hidle : s.seq = .idle)
    (h : wordsOffered (nextEvent s) s = w :: ws) : acceptedWord s = some w := by
  have hready : cmdReady s = true := (cmdReady_iff s).mpr hidle
  rw [acceptedWord, if_pos hready]
  cases he : nextEvent s with
  | cmd v =>
    rw [he] at h
    exact congrArg List.head? h
  | offerCommand =>
    rw [he] at h
    exact congrArg List.head? h
  | _ =>
    rw [he] at h
    cases h

/-- The events that offer a byte to the receiver (R127). -/
def OffersByte (e : Event) : Prop := e = .offerByte ∨ ∃ b, e = .rxbyte b

/-- Everything an event can do in the state `s`. -/
inductive Taken (s : State) : Event → State → Prop
  /-- The engine stays as it is; what is new at the host or the transport is held there. -/
  | unchanged (e : Event) (words : List CommandWord) (bytes : List Byte) :
      Taken s e { s with cmdPort := words, rxHeld := bytes }
  | reset (l : Bool) : Taken s (.reset l) (hardReset l s)
  | linkOpened (hlink : s.link = false) : Taken s (.link true) (fcbSetAll { s with link := true })
  | linkClosedIdle (hidle : s.seq = .idle) : Taken s (.link false) { s with link := false }
  | linkClosedSend (hsend : s.seq = .send) :
      Taken s (.link false) (ended (HalfDuplex.sendFailureResults s) { s with link := false })
  | linkClosedRecv (hrecv : s.seq = .recv) :
      Taken s (.link false) (ended { s.res with code := .ioError, flag := false } { s with link := false })
  | payloadWritten (i : BitVec 8) (v : Byte) (hi : i.toNat < maxPayload) :
      Taken s (.paywr i v) { s with payload := s.payload.write i.toNat v }
  | commandAccepted (e : Event) (w : CommandWord) (words : List CommandWord) (t : State) (hidle : s.seq = .idle)
      (hword : wordsOffered e s = w :: words)
      (ht : Accepted (cmdOp w) (cmdTmo w)
        (loadOperands (cmdOp w) (cmdAddr w) (cmdSec w) (cmdPlen w) { s with cmdPort := words }) t) : Taken s e t
  | acknowledged (hsend : s.seq = .send) (hmore : s.txI + 1#9 ≠ s.txLen) :
      Taken s .txack { s with tx := s.tx ++ [s.byteAt .txbuf s.txI.toNat], txI := s.txI + 1#9 }
  | acknowledgedLast (hsend : s.seq = .send) (hlast : s.txI + 1#9 = s.txLen) :
      Taken s .txack (sendWhole [s.byteAt .txbuf s.txI.toNat] s)
  | sendFailed (hsend : s.seq = .send) : Taken s .txerr (ended (HalfDuplex.sendFailureResults s) s)
  | byteAccepted (e : Event) (b : Byte) (bytes : List Byte) (he : OffersByte e) (hready : rxReady s = true) :
      Taken s e (takeByte b { s with rxHeld := bytes })
  | ticked (hwaits : receiverWaits s = true) (hbelow : s.elapsed + s.cfg.pollMs < s.timeout) :
      Taken s .tick { s with elapsed := s.elapsed + s.cfg.pollMs }
  | expired (hwaits : receiverWaits s = true) (hreached : s.timeout ≤ s.elapsed + s.cfg.pollMs) :
      Taken s .tick (Receiver.expired s)
  | frameSent (bytes : List Byte) (hoffers : offersFrame bytes s = true) :
      Taken s (.frame bytes) (sendWhole bytes s)
  | frameArrived (bytes : List Byte) : Taken s (.frame bytes) (arrive bytes s)

/-- A frame event is its bytes crossing the line, whether they decode or not (log entry 7). -/
theorem onFrame_eq_transferFrame (bytes : List Byte) (s : State) : onFrame bytes s = transferFrame bytes s := by
  cases hd : decodeWire bytes with
  | error r => exact onFrame_error hd s
  | ok i =>
    have henc : encode i = some (.wire bytes) := Encodings.encodeOfDecodeIsIdentity (.wire bytes) i hd
    rw [← exec_wire henc, onFrame, hd]

theorem taken_takeHeldCommand {e : Event} {s t : State} (u : State)
    (hu : u = { s with cmdPort := wordsOffered e s }) (h : takeHeldCommand u = .next t) : Taken s e t := by
  subst hu
  rcases takeHeldCommand_cases { s with cmdPort := wordsOffered e s } with ⟨_, hn⟩ | ⟨hidle, w, ws, hport, hn⟩ <;>
    rw [hn] at h <;> cases h
  · exact .unchanged e _ s.rxHeld
  · exact .commandAccepted e w ws _ hidle hport (accepted_runOf _ _ _)

theorem taken_takeHeldByte {e : Event} {s t : State} (he : OffersByte e) (bytes : List Byte)
    (h : takeHeldByte { s with rxHeld := bytes } = .next t) : Taken s e t := by
  rcases takeHeldByte_cases { s with rxHeld := bytes } with ⟨_, hn⟩ | ⟨hready, b, bs, _, hn⟩ <;>
    rw [hn] at h <;> cases h
  · exact .unchanged e s.cmdPort _
  · exact .byteAccepted e b bs he hready

theorem taken_onLink {level : Bool} {s t : State} (h : onLink level s = .next t) : Taken s (.link level) t := by
  rcases onLink_cases level s with ⟨_, hn⟩ | ⟨rfl, hlink, hn⟩ | ⟨rfl, _, hn⟩ <;> rw [hn] at h <;> cases h
  · exact .unchanged _ s.cmdPort s.rxHeld
  · exact .linkOpened hlink
  · rcases linkLost_cases { s with link := false } with ⟨hseq, hl⟩ | ⟨hseq, hl⟩ | ⟨hseq, hl⟩ <;> rw [hl]
    · exact .linkClosedIdle hseq
    · rw [HalfDuplex.sendFailure_eq_ended]
      exact .linkClosedSend hseq
    · exact .linkClosedRecv hseq

/-- What an event leads to is one of the cases above. -/
theorem taken_of_onEvent {e : Event} {s t : State} (h : onEvent e s = .next t) : Taken s e t := by
  cases e with
  | reset l =>
    cases h
    exact .reset l
  | link level => exact taken_onLink h
  | paywr i v =>
    simp only [onEvent, onPayloadWrite, Host.Outcome.next.injEq] at h
    subst h
    split
    · next hi => exact .payloadWritten i v hi
    · exact .unchanged _ s.cmdPort s.rxHeld
  | cmd w => exact taken_takeHeldCommand (holdCommand w s) rfl h
  | offerCommand => exact taken_takeHeldCommand s rfl h
  | txack =>
    have hack : takeAck s = .next t := h
    rcases takeAck_cases s with ⟨_, hn⟩ | ⟨_, _, hn⟩ | ⟨hsend, _, hmore, hn⟩ | ⟨hsend, _, hlast, hn⟩ <;>
      rw [hn] at hack <;> cases hack
    · exact .unchanged _ s.cmdPort s.rxHeld
    · exact .acknowledged hsend hmore
    · exact .acknowledgedLast hsend hlast
  | txerr =>
    simp only [onEvent, onSendError, Host.Outcome.next.injEq] at h
    subst h
    split
    · next hsend =>
      rw [HalfDuplex.sendFailure_eq_ended]
      exact .sendFailed hsend
    · exact .unchanged _ s.cmdPort s.rxHeld
  | rxbyte b => exact taken_takeHeldByte (.inr ⟨b, rfl⟩) (s.rxHeld ++ [b]) h
  | offerByte => exact taken_takeHeldByte (.inl rfl) s.rxHeld h
  | tick =>
    obtain rfl : takeTick s = t := Host.Outcome.next.inj h
    cases hwaits : receiverWaits s with
    | false =>
      rw [Receiver.takeTick_idle hwaits]
      exact .unchanged _ s.cmdPort s.rxHeld
    | true =>
      by_cases hlt : s.elapsed + s.cfg.pollMs < s.timeout
      · rw [Receiver.takeTick_counts hwaits hlt]
        exact .ticked hwaits hlt
      · rw [Receiver.takeTick_expires hwaits (BitVec.not_lt.mp hlt)]
        exact .expired hwaits (BitVec.not_lt.mp hlt)
  | frame bytes =>
    have hcross : onFrame bytes s = .next t := h
    rw [onFrame_eq_transferFrame, transferFrame] at hcross
    split at hcross <;> cases hcross
    · next hoffers => exact .frameSent bytes hoffers
    · exact .frameArrived bytes

/-- Everything a step can do. -/
theorem taken_of_step {s t : State} (h : step s = .next t) : Taken (stepBase s) (nextEvent s) t :=
  taken_of_onEvent h

/-! ### The step and its event (O5, O6) -/

/-- A step in which a word is offered to the idle sequencer. -/
theorem takeHeldCommand_accepts {s : State} {w : CommandWord} {ws : List CommandWord} (hidle : s.seq = .idle)
    (hport : s.cmdPort = w :: ws) : takeHeldCommand s = exec (decodeCommand w) { s with cmdPort := ws } := by
  rw [takeHeldCommand, if_pos ((cmdReady_iff s).mpr hidle), hport]

/-- Settles O5: in each of the three situations the step is the offering of the first word. -/
theorem stepRunsTheOfferedCommand : Obligations.StepRunsTheOfferedCommand := by
  intro s w ws hidle hport
  refine ⟨fun hi => ?_, fun es hi => ?_, fun v es hi => ?_⟩
  · have hnotReady : rxReady s = false := not_rxReady_of_idle hidle
    have hevent : nextEvent s = .offerCommand := by rw [nextEvent_nil hi, hnotReady]; rfl
    rw [step_eq, hevent]
    refine (takeHeldCommand_accepts (s := stepBase s) hidle hport).trans ?_
    rw [stepBase, hi, List.tail_nil]
  · rw [step_eq, nextEvent_cons hi]
    refine (takeHeldCommand_accepts (s := stepBase s) hidle hport).trans ?_
    rw [stepBase, hi, List.tail_cons]
  · have hwords : (holdCommand v (stepBase s)).cmdPort = w :: (ws ++ [v]) := by
      show s.cmdPort ++ [v] = _
      rw [hport, List.cons_append]
    rw [step_eq, nextEvent_cons hi]
    refine (takeHeldCommand_accepts (s := holdCommand v (stepBase s)) hidle hwords).trans ?_
    rw [holdCommand, stepBase, hi, List.tail_cons]

/-- A byte offered with `rx_ready` is the first one held. -/
theorem takeHeldByte_ready {s : State} {h : Byte} {hs : List Byte} (hready : rxReady s = true)
    (hheld : s.rxHeld = h :: hs) : takeHeldByte s = exec (.rxByte h) { s with rxHeld := hs } := by
  rw [takeHeldByte, if_pos hready, hheld]

/-- A byte offered with none held is taken or stays with the transport, as RX_BYTE does with it. -/
theorem takeHeldByte_new {s : State} (hheld : s.rxHeld = []) (b : Byte) :
    takeHeldByte (holdBytes [b] s) = exec (.rxByte b) s := by
  have hone : (holdBytes [b] s).rxHeld = [b] := by rw [holdBytes_rxHeld, hheld, List.nil_append]
  cases hready : rxReady s with
  | true =>
    rw [takeHeldByte_ready (s := holdBytes [b] s) hready hone, holdBytes]
    exact congrArg (fun bs => exec (.rxByte b) { s with rxHeld := bs }) hheld.symm
  | false =>
    have hblocked : rxReady (holdBytes [b] s) = false := hready
    rw [takeHeldByte, hblocked, Receiver.exec_rxByte_blocked hready]
    rfl

/-- A command word offered with none held is accepted or held, as the command it decodes to does with it. -/
theorem takeHeldCommand_new {s : State} (hport : s.cmdPort = []) (w : CommandWord) :
    takeHeldCommand (holdCommand w s) = exec (decodeCommand w) s := by
  have hone : (holdCommand w s).cmdPort = [w] := by rw [holdCommand_cmdPort, hport, List.nil_append]
  by_cases hidle : s.seq = .idle
  · rw [takeHeldCommand_accepts (s := holdCommand w s) hidle hone, holdCommand]
    exact congrArg (fun ws => exec (decodeCommand w) { s with cmdPort := ws }) hport.symm
  · have hblocked : ¬ cmdReady (holdCommand w s) = true := fun h => hidle ((cmdReady_iff _).mp h)
    rw [decodeCommand, exec_commandOf, acceptCommand_busy hidle, commandWord_fields, takeHeldCommand, if_neg hblocked]

/-- Settles O6: `step` is `onEvent` of the next event, and each event is the instruction it stands for. -/
theorem stepRunsTheNextEvent : Obligations.StepRunsTheNextEvent := by
  refine ⟨fun s e es hinbox => ?_, fun s h hs hinbox hready hheld => ?_⟩
  · intro t
    have hbase : stepBase s = t := by rw [stepBase, hinbox, List.tail_cons]
    have hstep : step s = onEvent e t := by rw [step_eq, nextEvent_cons hinbox, hbase]
    rw [hstep]
    refine ⟨rfl, ?_, ?_, ?_, ?_, ?_, ?_, ?_⟩
    · rintro bytes i rfl hd
      show onFrame bytes t = _
      rw [onFrame, hd]
    · rintro bytes r rfl hd
      exact onFrame_error hd t
    · rintro rfl
      rfl
    · rintro w rfl hport
      exact takeHeldCommand_new (s := t) hport w
    · rintro b rfl hheld
      exact takeHeldByte_new (s := t) hheld b
    · rintro b h hs rfl hready hheld
      refine takeHeldByte_ready (s := holdBytes [b] t) hready ?_
      show s.rxHeld ++ [b] = _
      rw [hheld, List.cons_append]
    · rintro h hs rfl hready hheld
      exact takeHeldByte_ready (s := t) hready hheld
  · have hevent : nextEvent s = .offerByte := by rw [nextEvent_nil hinbox, if_pos hready]
    rw [step_eq, hevent]
    refine (takeHeldByte_ready (s := stepBase s) hready hheld).trans ?_
    rw [stepBase, hinbox, List.tail_nil]

/-! ### What ends a command (O7) -/

/-- The events that can end a command in progress (R208). -/
def CanEnd (e : Event) : Prop :=
  e = .txerr ∨ e = .tick ∨ e = .link false ∨ e = .offerByte ∨ (∃ l, e = .reset l) ∨ (∃ b, e = .rxbyte b) ∨
    ∃ bytes, e = .frame bytes

theorem canEnd_of_taken {s t : State} {e : Event} (h : Taken s e t) (hbusy : s.seq ≠ .idle) (hend : t.seq = .idle) :
    CanEnd e := by
  cases h with
  | unchanged => exact absurd hend hbusy
  | reset l => exact .inr (.inr (.inr (.inr (.inl ⟨l, rfl⟩))))
  | linkOpened => exact absurd hend hbusy
  | linkClosedIdle hidle => exact absurd hidle hbusy
  | linkClosedSend => exact .inr (.inr (.inl rfl))
  | linkClosedRecv => exact .inr (.inr (.inl rfl))
  | payloadWritten => exact absurd hend hbusy
  | commandAccepted _ _ _ _ hidle => exact absurd hidle hbusy
  | acknowledged => exact absurd hend hbusy
  | acknowledgedLast => cases hend
  | sendFailed => exact .inl rfl
  | byteAccepted _ _ _ he =>
    rcases he with rfl | ⟨b, rfl⟩
    · exact .inr (.inr (.inr (.inl rfl)))
    · exact .inr (.inr (.inr (.inr (.inr (.inl ⟨b, rfl⟩)))))
  | ticked => exact .inr (.inl rfl)
  | expired => exact .inr (.inl rfl)
  | frameSent bytes => exact .inr (.inr (.inr (.inr (.inr (.inr ⟨bytes, rfl⟩)))))
  | frameArrived bytes => exact .inr (.inr (.inr (.inr (.inr (.inr ⟨bytes, rfl⟩)))))

/-- Settles O7, from the cases of a step and the waiting step. -/
theorem nothingEndsWithoutAnEvent : Obligations.NothingEndsWithoutAnEvent := by
  refine ⟨fun s t hbusy hstep hend => canEnd_of_taken (taken_of_step hstep) hbusy hend,
    fun s hinbox hbytes hwords => ?_⟩
  rw [step_waits hinbox hbytes hwords, stepBase, hinbox, List.tail_nil]

/-! ### What writes a frame count bit (O15) -/

/-- How a receive can leave the frame count bits: as they were, or with the latch of an acknowledged link reset set. -/
structure LinkResetDone (a : Byte) (s t : State) : Prop where
  recv : s.seq = .recv
  op : s.op = 0x8#4
  addr : s.addr = a
  idle : t.seq = .idle
  complete : t.rxs = .complete
  ok : t.res.code = .ok
  single : t.res.cls = .single
  latch : fcbBit t a = true

theorem busOpOf_eq_linkreset {o : BitVec 4} (h : busOpOf o = some .linkreset) : o = 0x8#4 := by
  revert o
  decide

theorem busOpOf_eq_poll {o : BitVec 4} (h : busOpOf o = some .poll) : o = 0x1#4 := by
  revert o
  decide

/-- An accepted byte writes a latch only by completing the acknowledgement of a link reset of its address. -/
theorem takeByte_fcb (a b : Byte) {s : State} (hrecv : s.seq = .recv) :
    fcbBit (takeByte b s) a = fcbBit s a ∨ LinkResetDone a s (takeByte b s) := by
  have hclassified : fcbBit (Receiver.completed b s) a = fcbBit s a :=
    fcbBit_congr a (Receiver.completed_fcb b s)
  rcases Receiver.takeByte_cases b s with h | h <;> rw [h]
  · exact .inl (fcbBit_congr a (by rw [learnLength_frame]; rfl))
  · cases hop : busOpOf s.op with
    | none =>
      rw [finishComplete_none (by rw [Receiver.completed_op, hop])]
      exact .inl hclassified
    | some op =>
      rw [finishComplete_some (by rw [Receiver.completed_op, hop]), Receiver.completed_addr]
      by_cases hdone : op = .linkreset ∧ (Receiver.completed b s).res.cls = .single ∧ a = s.addr
      · obtain ⟨rfl, hcls, ha⟩ := hdone
        refine .inr ⟨hrecv, busOpOf_eq_linkreset hop, ha.symm, rfl, ?_, ?_, ?_, ?_⟩
        · show (completeFcb _ _).rxs = _
          rw [Receiver.completeFcb_frame]
          exact Receiver.completed_rxs b s
        · show (completeResults _ _ _).code = _
          simp [completeResults, hcls]
        · show (completeResults _ _ _).cls = _
          simp [completeResults, hcls]
        · show fcbBit (completeFcb _ _) a = _
          rw [Receiver.fcbBit_completeFcb, Receiver.completed_addr, if_pos ⟨rfl, hcls, ha⟩]
      · refine .inl ?_
        show fcbBit (completeFcb _ _) a = _
        rw [Receiver.fcbBit_completeFcb, Receiver.completed_addr, if_neg hdone, hclassified]

/-- While bytes arrive, a latch is as it was, or the operation has ended as an acknowledged link reset. -/
def LatchKeptOrSet (a : Byte) (s u : State) : Prop :=
  (fcbBit u a = fcbBit s a ∧ u.op = s.op ∧ u.addr = s.addr ∧ (u.seq = .recv → s.seq = .recv)) ∨ LinkResetDone a s u

theorem latchKeptOrSet_takeByte {a b : Byte} {s u : State} (hready : rxReady u = true) (h : LatchKeptOrSet a s u) :
    LatchKeptOrSet a s (takeByte b u) := by
  obtain ⟨hrecv, _, _⟩ := (rxReady_iff u).mp hready
  rcases h with ⟨hfcb, hop, haddr, hseq⟩ | hdone
  · rcases takeByte_fcb a b hrecv with hkept | hset
    · refine .inl ⟨hkept.trans hfcb, ?_, ?_, fun _ => hseq hrecv⟩
      · rw [takeByte_frame]; exact hop
      · rw [takeByte_frame]; exact haddr
    · exact .inr { hset with recv := hseq hrecv, op := hop ▸ hset.op, addr := haddr ▸ hset.addr }
  · exact absurd (hrecv.symm.trans hdone.idle) (by simp)

theorem latchKeptOrSet_arrive (a : Byte) (bytes : List Byte) (s : State) : LatchKeptOrSet a s (arrive bytes s) := by
  refine feed_induction (P := LatchKeptOrSet a s) (fun _ _ => latchKeptOrSet_takeByte) (fun bs u h => ?_) _ _
    (.inl ⟨rfl, rfl, rfl, id⟩)
  rcases h with h | h
  · exact .inl h
  · exact .inr { h with }

/-- The four causes of R110, R114 and R153, in the words of the obligation. -/
def LatchWritten (a : Byte) (s : State) (e : Event) (t : State) : Prop :=
  (∃ w words, s.seq = .idle ∧ wordsOffered e s = w :: words ∧ s.link = true ∧ cmdOp w = 0x1#4 ∧ cmdAddr w = a) ∨
  LinkResetDone a s t ∨ (e = .link true ∧ s.link = false ∧ fcbBit t a = true) ∨
  ((∃ l, e = .reset l) ∧ fcbBit t a = true)

/-- An accepted command writes no latch but that of the address it polls. -/
theorem accepted_fcb {op : BitVec 4} {tmo : BitVec 32} {s t : State} (h : Accepted op tmo s t) {a : Byte}
    (hne : fcbBit t a ≠ fcbBit s a) : s.link = true ∧ op = 0x1#4 ∧ s.addr = a := by
  cases h with
  | failed => exact absurd rfl hne
  | timeoutSet => exact absurd rfl hne
  | frameLoaded bus frame hop hlink =>
    cases bus with
    | poll =>
      refine ⟨hlink, busOpOf_eq_poll hop, ?_⟩
      by_contra haddr
      refine hne ?_
      show fcbBit (fcbFlip s.addr s) a = fcbBit s a
      rw [fcbBit_fcbFlip, if_neg (fun e => haddr e.symm)]
    | _ => exact absurd rfl hne

theorem latchWritten_of_taken {s t : State} {e : Event} (h : Taken s e t) {a : Byte} (hne : fcbBit t a ≠ fcbBit s a) :
    LatchWritten a s e t := by
  cases h with
  | reset l => exact .inr (.inr (.inr ⟨⟨l, rfl⟩, fcbBit_fcbSetAll a s⟩))
  | linkOpened hlink => exact .inr (.inr (.inl ⟨rfl, hlink, fcbBit_fcbSetAll a _⟩))
  | commandAccepted _ w words _ hidle hword ht =>
    obtain ⟨hlink, hop, haddr⟩ := accepted_fcb ht hne
    exact .inl ⟨w, words, hidle, hword, hlink, hop, haddr⟩
  | byteAccepted _ b bytes _ hready =>
    obtain ⟨hrecv, _, _⟩ := (rxReady_iff s).mp hready
    rcases takeByte_fcb a b (s := { s with rxHeld := bytes }) hrecv with hkept | hdone
    · exact absurd hkept hne
    · exact .inr (.inl { hdone with recv := hrecv })
  | frameArrived bytes =>
    rcases latchKeptOrSet_arrive a bytes s with ⟨hkept, _⟩ | hdone
    · exact absurd hkept hne
    · exact .inr (.inl hdone)
  | _ => exact absurd rfl hne

/-- Settles O15, from the cases of a step and an induction over the bytes of an arriving frame. -/
theorem onlyFourEventsWriteTheLatches : Obligations.OnlyFourEventsWriteTheLatches := by
  intro s t a hstep hne
  rcases latchWritten_of_taken (taken_of_step hstep) hne with
    ⟨w, words, hidle, hword, hlink, hop, haddr⟩ | hdone | hopened | hreset
  · exact .inl ⟨w, acceptedWord_eq hidle hword, hlink, hop, haddr⟩
  · exact .inr (.inl ⟨hdone.recv, hdone.op, hdone.addr, hdone.idle, hdone.complete, hdone.ok, hdone.single,
      hdone.latch⟩)
  · exact .inr (.inr (.inl hopened))
  · exact .inr (.inr (.inr hreset))

/-! ### What writes TIMEOUT (O57) -/

theorem arrive_timeout (bytes : List Byte) (s : State) : (arrive bytes s).timeout = s.timeout := by
  refine feed_induction (P := fun u => u.timeout = s.timeout) (fun b u _ h => ?_) (fun _ _ h => h) _ _ rfl
  rw [takeByte_frame]
  exact h

theorem accepted_timeout {op : BitVec 4} {tmo : BitVec 32} {s t : State} (h : Accepted op tmo s t)
    (hne : t.timeout ≠ s.timeout) : op = 0x9#4 ∧ t.timeout = tmo ∧ 0 < tmo.toInt := by
  cases h with
  | failed => exact absurd rfl hne
  | timeoutSet hop hpos => exact ⟨hop, rfl, hpos⟩
  | frameLoaded bus =>
    refine absurd ?_ hne
    rw [muxState_frame]
    rfl

/-- Settles O57, from the cases of a step. -/
theorem onlySetTimeoutAndResetWriteTheTimeout : Obligations.OnlySetTimeoutAndResetWriteTheTimeout := by
  intro s t hstep hne
  have htaken := taken_of_step hstep
  generalize he : nextEvent s = e at htaken
  cases htaken with
  | reset l => exact .inr ⟨⟨l, rfl⟩, rfl⟩
  | commandAccepted _ w words _ hidle hword ht =>
    obtain ⟨hop, htmo, hpos⟩ := accepted_timeout ht hne
    exact .inl ⟨w, acceptedWord_eq hidle (he ▸ hword), hop, htmo, hpos⟩
  | byteAccepted _ b bytes =>
    refine absurd ?_ hne
    rw [takeByte_frame]
    rfl
  | frameArrived bytes => exact absurd (arrive_timeout bytes (stepBase s)) hne
  | _ => exact absurd rfl hne

end Transitions

end Sys2Proof.Machine

/-! PROOFS. The invariant of the engine (spec/10_state.md R24 to R30, spec/20_memory.md R51 to R53, R67,
spec/42_response_receiver.md R120, R123): every case of a step keeps it. Then the obligations that rest on it (O18, O44,
O51 to O53, O59). -/

namespace Sys2Proof.Machine

namespace Soundness

open Sys2Proof.Machine.Laws Sys2Proof.Machine.Receiver Sys2Proof.Machine.Transitions

/-! ### The parts of the invariant -/

/-- What the invariant says of the stores, whatever `SEQ` and `RXS` are. -/
structure StoresInv (s : State) : Prop where
  buffers : BuffersInv s
  timeoutPositive : 1 ≤ s.timeout.toNat
  timeoutBound : s.timeout.toNat < 2 ^ 31
  receivedCount : s.rxn.toNat ≤ maxFrame
  receivedWritten : ∀ i, i < s.rxn.toNat → (s.rxbuf.read? i).isSome = true
  results : ResultsInv s.res

theorem engineInv_iff (s : State) :
    EngineInv s ↔ StoresInv s ∧ ReceiverStateInv s ∧ (s.seq = .send → SendInv s) ∧ (s.seq = .recv → RecvInv s) :=
  ⟨fun h => ⟨⟨h.buffers, h.timeoutPositive, h.timeoutBound, h.receivedCount, h.receivedWritten, h.results⟩, h.receiver,
      h.sending, h.receiving⟩,
    fun ⟨h, hr, hsend, hrecv⟩ => ⟨h.buffers, hsend, hrecv, h.timeoutPositive, h.timeoutBound, h.receivedCount,
      h.receivedWritten, hr, h.results⟩⟩

theorem storesInv {s : State} (h : EngineInv s) : StoresInv s := ((engineInv_iff s).mp h).1

/-- In `SEQ_IDLE` nothing is said of a command in progress. -/
theorem engineInv_of_idle {s : State} (h : StoresInv s) (hr : ReceiverStateInv s) (hidle : s.seq = .idle) :
    EngineInv s :=
  (engineInv_iff s).mpr ⟨h, hr, fun e => absurd (hidle.symm.trans e) (by simp),
    fun e => absurd (hidle.symm.trans e) (by simp)⟩

/-- `t` has the stores of `s`. -/
structure SameStores (s t : State) : Prop where
  payload : t.payload = s.payload := by rfl
  txbuf : t.txbuf = s.txbuf := by rfl
  rxbuf : t.rxbuf = s.rxbuf := by rfl
  timeout : t.timeout = s.timeout := by rfl
  rxn : t.rxn = s.rxn := by rfl

/-- `t` has the command and the transmit state of `s`. -/
structure SameTransmit (s t : State) : Prop where
  op : t.op = s.op := by rfl
  txI : t.txI = s.txI := by rfl
  txLen : t.txLen = s.txLen := by rfl
  txbuf : t.txbuf = s.txbuf := by rfl
  tx : t.tx = s.tx := by rfl

/-- `t` has everything of `s` that the invariant reads, but the link. -/
structure SameEngine (s t : State) : Prop extends SameStores s t, SameTransmit s t where
  seq : t.seq = s.seq := by rfl
  res : t.res = s.res := by rfl
  elapsed : t.elapsed = s.elapsed := by rfl
  rxs : t.rxs = s.rxs := by rfl
  rxexp : t.rxexp = s.rxexp := by rfl

section

variable {s t : State}

theorem storesInv_congr (h : StoresInv s) (e : SameStores s t) (hres : ResultsInv t.res) : StoresInv t where
  buffers := ⟨e.payload ▸ h.buffers.payloadWf, e.payload ▸ h.buffers.payloadBelow, e.txbuf ▸ h.buffers.txbufWf,
    e.txbuf ▸ h.buffers.txbufBelow, e.rxbuf ▸ h.buffers.rxbufWf, e.rxbuf ▸ h.buffers.rxbufBelow⟩
  timeoutPositive := e.timeout ▸ h.timeoutPositive
  timeoutBound := e.timeout ▸ h.timeoutBound
  receivedCount := e.rxn ▸ h.receivedCount
  receivedWritten := by rw [e.rxn, e.rxbuf]; exact h.receivedWritten
  results := hres

theorem emitted_congr (h : Emitted s) (e : SameTransmit s t) : Emitted t := by
  rw [Emitted, e.txI, e.txbuf, e.tx]
  exact h

theorem sendInv_congr (h : SendInv s) (e : SameTransmit s t) (hlink : t.link = true) : SendInv t where
  linkOpen := hlink
  busOp := e.op ▸ h.busOp
  index := by rw [e.txI, e.txLen]; exact h.index
  shortest := e.txLen ▸ h.shortest
  longest := e.txLen ▸ h.longest
  written := by rw [e.txLen, e.txbuf]; exact h.written
  emitted := emitted_congr h.emitted e

theorem recvInv_congr (h : RecvInv s) (e : SameTransmit s t) (hlink : t.link = true) (hwaits : t.rxs.waiting = true)
    (helapsed : t.elapsed.toNat < t.timeout.toNat) : RecvInv t where
  linkOpen := hlink
  busOp := e.op ▸ h.busOp
  waits := hwaits
  notExpired := helapsed
  requestSent := by rw [e.txI, e.txLen]; exact h.requestSent
  emitted := emitted_congr h.emitted e

/-- What is outside the engine does not matter to the invariant, nor do the pulses, the frame count bits and an opening
of the link. -/
theorem engineInv_congr (h : EngineInv s) (e : SameEngine s t) (hlink : s.link = true → t.link = true) :
    EngineInv t := by
  refine (engineInv_iff t).mpr ⟨storesInv_congr (storesInv h) e.toSameStores (e.res ▸ h.results), ?_, fun hs => ?_,
    fun hr => ?_⟩
  · have hreceiver := h.receiver
    simpa only [ReceiverStateInv, expectedLength, e.rxs, e.rxn, e.rxexp, e.rxbuf] using hreceiver
  · have hsend := h.sending (e.seq ▸ hs)
    exact sendInv_congr hsend e.toSameTransmit (hlink hsend.linkOpen)
  · have hrecv := h.receiving (e.seq ▸ hr)
    have helapsed : t.elapsed.toNat < t.timeout.toNat := by rw [e.elapsed, e.timeout]; exact hrecv.notExpired
    exact recvInv_congr hrecv e.toSameTransmit (hlink hrecv.linkOpen) (e.rxs ▸ hrecv.waits) helapsed

end

/-- A command that ends leaves a state that meets the invariant. -/
theorem engineInv_ended {s : State} {r : Results} (h : StoresInv s) (hr : ReceiverStateInv s) (hres : ResultsInv r) :
    EngineInv (ended r s) :=
  engineInv_of_idle (storesInv_congr h {} hres) hr rfl

/-- The codes with which the engine ends a command by an error. -/
theorem resultsInv_code {r : Results} (h : ResultsInv r) {code : ResultCode} {flag : Bool}
    (h1 : code ≠ .decodingError) (h2 : code ≠ .connectionError) (h3 : flag = true → code = .ok) :
    ResultsInv { r with code := code, flag := flag } := ⟨h1, h2, h.noShortClass, h3⟩

/-! ### The expected length (R123) -/

theorem expectedLength_single {s : State} (hn : 1 ≤ s.rxn.toNat) (h0 : s.rxbuf.read? 0 = some 0xE5#8) :
    expectedLength s = some 1 := if_pos ⟨hn, h0⟩

theorem expectedLength_long {s : State} {l : Byte} (hn : 2 ≤ s.rxn.toNat) (h0 : s.rxbuf.read? 0 = some 0x68#8)
    (h1 : s.rxbuf.read? 1 = some l) : expectedLength s = some (l.toNat + 6) := by
  rw [expectedLength, if_neg (by simp [h0]), if_pos ⟨hn, h0⟩, h1]
  rfl

theorem expectedLength_none {s : State} (hE5 : s.rxbuf.read? 0 ≠ some 0xE5#8)
    (h68 : 2 ≤ s.rxn.toNat → s.rxbuf.read? 0 ≠ some 0x68#8) : expectedLength s = none := by
  rw [expectedLength, if_neg (fun h => hE5 h.2), if_neg (fun h => h68 h.1 h.2)]

/-- A known length was told by the single character, or by the byte behind a long start. -/
theorem expectedLength_eq_some {s : State} {n : Nat} (h : expectedLength s = some n) :
    (n = 1 ∧ 1 ≤ s.rxn.toNat ∧ s.rxbuf.read? 0 = some 0xE5#8) ∨
    ∃ l, n = l.toNat + 6 ∧ 2 ≤ s.rxn.toNat ∧ s.rxbuf.read? 0 = some 0x68#8 ∧ s.rxbuf.read? 1 = some l := by
  unfold expectedLength at h
  split at h
  · next hs => exact .inl ⟨(Option.some.inj h).symm, hs⟩
  · split at h
    · next hs =>
      obtain ⟨l, hl, rfl⟩ := Option.map_eq_some_iff.mp h
      exact .inr ⟨l, rfl, hs.1, hs.2, hl⟩
    · cases h

/-- An unknown length means that the first byte starts no single character, and a long frame only as the last byte
accumulated. -/
theorem start_of_expectedLength_none {s : State} (h : expectedLength s = none) (hn : 1 ≤ s.rxn.toNat)
    (hwritten : ∀ i, i < s.rxn.toNat → (s.rxbuf.read? i).isSome = true) :
    s.rxbuf.read? 0 ≠ some 0xE5#8 ∧ (s.rxbuf.read? 0 = some 0x68#8 → s.rxn.toNat = 1) := by
  refine ⟨fun h0 => ?_, fun h0 => ?_⟩
  · rw [expectedLength_single hn h0] at h
    cases h
  · by_contra hne
    obtain ⟨l, hl⟩ := Option.isSome_iff_exists.mp (hwritten 1 (by omega))
    rw [expectedLength_long (by omega) h0 hl] at h
    cases h

/-- A length once known stays the same as more bytes come. -/
theorem expectedLength_storeByte {s : State} {n : Nat} (h : expectedLength s = some n) (hfull : s.rxn.toNat < 261)
    (b : Byte) : expectedLength (storeByte b s) = some n := by
  have hcount : (storeByte b s).rxn.toNat = s.rxn.toNat + 1 := rxn_succ_toNat (by omega)
  rcases expectedLength_eq_some h with ⟨rfl, hn, h0⟩ | ⟨l, rfl, hn, h0, h1⟩
  · exact expectedLength_single (by omega) (by rw [read?_storeByte, if_neg (by omega), h0])
  · exact expectedLength_long (by omega) (by rw [read?_storeByte, if_neg (by omega), h0])
      (by rw [read?_storeByte, if_neg (by omega), h1])

/-! ### An accepted byte -/

/-- Storing a byte keeps the stores sound as long as there is room. -/
theorem storesInv_storeByte {s : State} (h : StoresInv s) (hroom : s.rxn.toNat < 261) (b : Byte) :
    StoresInv (storeByte b s) where
  buffers := { h.buffers with
    rxbufWf := wf_write h.buffers.rxbufWf _ _
    rxbufBelow := below_write h.buffers.rxbufBelow hroom }
  timeoutPositive := h.timeoutPositive
  timeoutBound := h.timeoutBound
  receivedCount := by
    show (s.rxn + 1#9).toNat ≤ 261
    rw [rxn_succ_toNat (by omega)]
    omega
  receivedWritten := fun i hi => by
    have hi' : i < s.rxn.toNat + 1 := by rwa [← rxn_succ_toNat (s := s) (by omega)]
    rw [read?_storeByte]
    split
    · rfl
    · exact h.receivedWritten i (by omega)
  results := h.results

/-- The stores at the completion of a frame. -/
theorem storesInv_completed {s : State} (h : StoresInv s) (hroom : s.rxn.toNat < 261) (b : Byte) :
    StoresInv (completed b s) := by
  obtain ⟨hcode, hflag, _, hcls⟩ := completed_results b s
  have hres : ResultsInv (completed b s).res := by
    refine ⟨?_, ?_, ?_, ?_⟩
    · rw [hcode]; exact h.results.noDecodingError
    · rw [hcode]; exact h.results.noConnectionError
    · rcases hcls with hc | hc | hc <;> simp [hc]
    · rw [hcode, hflag]; exact h.results.flagMeansOk
  rw [completed_frame]
  exact storesInv_congr (storesInv_storeByte h hroom b) {} hres

/-- The byte rows of the receiver in a sound state (R120, R122). -/
inductive ByteRow (b : Byte) (s : State) : Prop
  | start (hrxs : s.rxs = .awaitFirst) (hb : b ≠ 0xE5#8)
      (ht : takeByte b s = { storeByte b s with rxs := .awaitLen })
  | length (hrxs : s.rxs = .awaitLen) (hstart : s.rxbuf.read? 0 = some 0x68#8) (hrxn : s.rxn.toNat = 1)
      (ht : takeByte b s = { storeByte b s with rxexp := b.zeroExtend 9 + 6#9, rxs := .lenKnown })
  | unknown (hrxs : s.rxs = .awaitLen) (hstart : s.rxbuf.read? 0 ≠ some 0x68#8) (ht : takeByte b s = storeByte b s)
  | known (hrxs : s.rxs = .lenKnown) (hmore : s.rxn + 1#9 ≠ s.rxexp) (ht : takeByte b s = storeByte b s)
  | completes (hc : completesFrame b s) (ht : takeByte b s = finishComplete (completed b s))

/-- The length `b + 6` that a length byte tells fits its register. -/
theorem lengthOf_toNat (b : Byte) : (b.zeroExtend 9 + 6#9).toNat = b.toNat + 6 := by bv_omega

theorem byteRow_of_engineInv {s : State} (h : EngineInv s) (hwaits : s.rxs.waiting = true) (b : Byte) :
    ByteRow b s := by
  have hreceiver := h.receiver
  unfold ReceiverStateInv at hreceiver
  rcases (Ports.waiting_iff _).mp hwaits with hrxs | hrxs | hrxs <;> rw [hrxs] at hreceiver
  · by_cases hb : b = 0xE5#8
    · have hc : completesFrame b s := .inl ⟨hrxs, BitVec.eq_of_toNat_eq hreceiver, hb⟩
      exact .completes hc (takeByte_completes hc)
    · exact .start hrxs hb (takeByte_start hrxs hb)
  · obtain ⟨hpos, hnone⟩ := hreceiver
    obtain ⟨v, hv⟩ := Option.isSome_iff_exists.mp (h.receivedWritten 0 hpos)
    have hbyte : s.byteAt .rxbuf 0 = v := byteAt_of_read? hv
    by_cases hstart : v = 0x68#8
    · have h0 : s.rxbuf.read? 0 = some 0x68#8 := hstart ▸ hv
      have hone := (start_of_expectedLength_none hnone hpos h.receivedWritten).2 h0
      refine .length hrxs h0 hone (takeByte_length hrxs hpos (hbyte.trans hstart) fun e => ?_)
      have hlen := lengthOf_toNat b
      rw [e, rxn_succ_toNat (by omega)] at hlen
      omega
    · refine .unknown hrxs (fun e => hstart ?_) (takeByte_unknown hrxs hpos (fun e => hstart (hbyte.symm.trans e)))
      exact Option.some.inj (hv.symm.trans e)
  · by_cases hmore : s.rxn + 1#9 = s.rxexp
    · have hc : completesFrame b s := .inr ⟨hrxs, hmore⟩
      exact .completes hc (takeByte_completes hc)
    · exact .known hrxs hmore (takeByte_known hrxs hmore)

/-- What was expected is what was received, when a byte completes the frame. -/
theorem receiverStateInv_completed {b : Byte} {s : State} (h : EngineInv s) (hroom : s.rxn.toNat < 261)
    (hc : completesFrame b s) : ReceiverStateInv (completed b s) := by
  have hlen : expectedLength (storeByte b s) = some (s.rxn + 1#9).toNat := by
    have hreceiver := h.receiver
    unfold ReceiverStateInv at hreceiver
    rcases hc with ⟨_, hrxn, rfl⟩ | ⟨hrxs, hlast⟩
    · have hzero : s.rxn.toNat = 0 := by rw [hrxn]; rfl
      rw [rxn_succ_toNat (by omega), hzero]
      refine expectedLength_single ?_ (by rw [read?_storeByte, if_pos hzero.symm])
      show 1 ≤ (s.rxn + 1#9).toNat
      rw [rxn_succ_toNat (by omega), hzero]
    · rw [hrxs] at hreceiver
      rw [hlast]
      exact expectedLength_storeByte hreceiver.1 hroom b
  rw [completed_frame]
  exact ⟨hlen, rfl⟩

/-- A byte that does not complete the frame leaves the receive under way, one byte on. -/
theorem takeByte_continues {b : Byte} {s : State} (h : EngineInv s) (hwaits : s.rxs.waiting = true)
    (hc : ¬ completesFrame b s) :
    ∃ x n, x.waiting = true ∧ takeByte b s = { storeByte b s with rxs := x, rxexp := n } := by
  cases byteRow_of_engineInv h hwaits b with
  | start _ _ ht => exact ⟨_, s.rxexp, rfl, ht⟩
  | length _ _ _ ht => exact ⟨_, _, rfl, ht⟩
  | unknown hrxs _ ht => exact ⟨s.rxs, s.rxexp, by rw [hrxs]; rfl, ht⟩
  | known hrxs _ ht => exact ⟨s.rxs, s.rxexp, by rw [hrxs]; rfl, ht⟩
  | completes hyes => exact absurd hyes hc

/-- The receiver's state after a byte that does not complete the frame. -/
theorem receiverStateInv_takeByte {b : Byte} {s : State} (h : EngineInv s) (hwaits : s.rxs.waiting = true)
    (hroom : s.rxn.toNat < 261) (hc : ¬ completesFrame b s) : ReceiverStateInv (takeByte b s) := by
  have hcount : (s.rxn + 1#9).toNat = s.rxn.toNat + 1 := rxn_succ_toNat (by omega)
  have hreceiver := h.receiver
  unfold ReceiverStateInv at hreceiver
  cases byteRow_of_engineInv h hwaits b with
  | start hrxs hb ht =>
    rw [hrxs] at hreceiver
    have hzero : s.rxn.toNat = 0 := hreceiver
    have h0 : (storeByte b s).rxbuf.read? 0 = some b := by rw [read?_storeByte, if_pos hzero.symm]
    have hone : (storeByte b s).rxn.toNat = 1 := by rw [storeByte_rxn, hcount, hzero]
    rw [ht]
    refine ⟨hone.ge, expectedLength_none (s := storeByte b s) (fun e => hb ?_) (fun e => by omega)⟩
    exact Option.some.inj (h0.symm.trans e)
  | length hrxs hstart hrxn ht =>
    rw [ht]
    have hknown : expectedLength (storeByte b s) = some (b.toNat + 6) :=
      expectedLength_long (by rw [storeByte_rxn, hcount, hrxn]) (by rw [read?_storeByte, if_neg (by omega), hstart])
        (by rw [read?_storeByte, if_pos hrxn.symm])
    refine ⟨hknown.trans (congrArg some (lengthOf_toNat b).symm), ?_⟩
    show (s.rxn + 1#9).toNat < (b.zeroExtend 9 + 6#9).toNat
    rw [hcount, lengthOf_toNat]
    omega
  | unknown hrxs hstart ht =>
    rw [hrxs] at hreceiver
    obtain ⟨hpos, hnone⟩ := hreceiver
    have h0 : (storeByte b s).rxbuf.read? 0 = s.rxbuf.read? 0 := by rw [read?_storeByte, if_neg (by omega)]
    have hE5 := (start_of_expectedLength_none hnone hpos h.receivedWritten).1
    rw [ht, ReceiverStateInv, storeByte_rxs, hrxs]
    refine ⟨by rw [storeByte_rxn, hcount]; omega, expectedLength_none ?_ fun _ => ?_⟩
    · rw [h0]; exact hE5
    · rw [h0]; exact hstart
  | known hrxs hmore ht =>
    rw [hrxs] at hreceiver
    obtain ⟨hlen, hlt⟩ := hreceiver
    rw [ht, ReceiverStateInv, storeByte_rxs, hrxs]
    refine ⟨expectedLength_storeByte hlen hroom b, ?_⟩
    have hne : (s.rxn + 1#9).toNat ≠ s.rxexp.toNat := fun e => hmore (BitVec.eq_of_toNat_eq e)
    rw [storeByte_rxn, storeByte_rxexp]
    omega
  | completes hyes => exact absurd hyes hc

/-- An accepted byte keeps the invariant. -/
theorem engineInv_takeByte {s : State} (h : EngineInv s) (hready : rxReady s = true) (b : Byte) :
    EngineInv (takeByte b s) := by
  obtain ⟨hseq, hwaits, hroom⟩ := (rxReady_iff s).mp hready
  have hrecv := h.receiving hseq
  by_cases hc : completesFrame b s
  · obtain ⟨op, hop⟩ := Option.isSome_iff_exists.mp hrecv.busOp
    have hop' : busOpOf (completed b s).op = some op := by rw [completed_op, hop]
    have hstores := storesInv_completed (storesInv h) hroom b
    have hres : ResultsInv (completeResults op s.addr (completed b s).res) := by
      have hfinished := finish_results hstores.results
      rwa [finish_complete (completed_rxs b s), finishComplete_some hop', completed_addr] at hfinished
    rw [takeByte_ends hc hop, completeFcb_frame]
    exact engineInv_ended (storesInv_congr hstores {} hstores.results) (receiverStateInv_completed h hroom hc) hres
  · have hreceiver := receiverStateInv_takeByte h hwaits hroom hc
    obtain ⟨x, n, hx, ht⟩ := takeByte_continues h hwaits hc
    rw [ht] at hreceiver ⊢
    refine (engineInv_iff _).mpr ⟨storesInv_congr (storesInv_storeByte (storesInv h) hroom b) {} h.results, hreceiver,
      fun e => ?_, fun _ => recvInv_congr hrecv {} hrecv.linkOpen hx hrecv.notExpired⟩
    exact absurd (hseq.symm.trans e) (by simp)

/-! ### Sending -/

/-- What was emitted, with the bytes that follow (R143). -/
theorem emitted_append {s t : State} {bytes : List Byte} (h : Emitted s) (htx : t.tx = s.tx ++ bytes)
    (htxI : t.txI.toNat = s.txI.toNat + bytes.length) (htxbuf : t.txbuf = s.txbuf)
    (hbytes : ∀ k, k < bytes.length → s.txbuf.read? (s.txI.toNat + k) = bytes[k]?) : Emitted t := by
  obtain ⟨before, sent, htx', hlen, hsent⟩ := h
  refine ⟨before, sent ++ bytes, by rw [htx, htx', List.append_assoc], by rw [List.length_append, htxI, hlen],
    fun i hi => ?_⟩
  rw [htxbuf]
  by_cases hlt : i < s.txI.toNat
  · rw [hsent i hlt, List.getElem?_append_left (by omega)]
  · have hk := hbytes (i - s.txI.toNat) (by omega)
    rw [Nat.add_sub_cancel' (by omega)] at hk
    rw [hk, List.getElem?_append_right (by omega), hlen]

/-- `E_TXACK` of a byte that is not the last (R143). -/
theorem onAck_of_more {s : State} {b : Byte} (hsend : s.seq = .send) (hin : s.txI.toNat < 261)
    (hb : s.txbuf.read? s.txI.toNat = some b) (hmore : s.txI + 1#9 ≠ s.txLen) :
    onEvent .txack s = .next { s with tx := s.tx ++ [b], txI := s.txI + 1#9 } := by
  have hbyte : s.byteAt .txbuf s.txI.toNat = b := byteAt_of_read? hb
  rcases takeAck_cases s with ⟨hn, _⟩ | ⟨_, hout, _⟩ | ⟨_, _, _, ht⟩ | ⟨_, _, hlast, _⟩
  · exact absurd hsend hn
  · exact absurd hin hout
  · rw [← hbyte]
    exact ht
  · exact absurd hlast hmore

/-- `E_TXACK` of the last byte (R143). -/
theorem onAck_of_last {s : State} {b : Byte} (hsend : s.seq = .send) (hin : s.txI.toNat < 261)
    (hb : s.txbuf.read? s.txI.toNat = some b) (hlast : s.txI + 1#9 = s.txLen) :
    onEvent .txack s = .next (sendWhole [b] s) := by
  have hbyte : s.byteAt .txbuf s.txI.toNat = b := byteAt_of_read? hb
  rcases takeAck_cases s with ⟨hn, _⟩ | ⟨_, hout, _⟩ | ⟨_, _, hmore, _⟩ | ⟨_, _, _, ht⟩
  · exact absurd hsend hn
  · exact absurd hin hout
  · exact absurd hlast hmore
  · rw [← hbyte]
    exact ht

/-- The byte at `TXI` while sending. -/
theorem read?_byteAt_txI {s : State} (h : SendInv s) :
    s.txbuf.read? s.txI.toNat = some (s.byteAt .txbuf s.txI.toNat) := Ports.read?_txI_of_sendInv h

/-- While sending, the count of bytes sent does not wrap. -/
theorem txI_succ_toNat {s : State} (h : SendInv s) : (s.txI + 1#9).toNat = s.txI.toNat + 1 := by
  have hindex := h.index
  have hlongest := h.longest
  bv_omega

/-- The list of the one byte at `TXI`, read where `TXBUF` holds it. -/
theorem read?_singleton_txI {s : State} (h : SendInv s) (k : Nat) (hk : k < [s.byteAt .txbuf s.txI.toNat].length) :
    s.txbuf.read? (s.txI.toNat + k) = [s.byteAt .txbuf s.txI.toNat][k]? := by
  obtain rfl : k = 0 := Nat.lt_one_iff.mp hk
  rw [Nat.add_zero, read?_byteAt_txI h]
  rfl

/-- Sending the rest of the frame and arming the receiver keeps the invariant. -/
theorem engineInv_sendWhole {s : State} {bytes : List Byte} (h : EngineInv s) (hsend : s.seq = .send)
    (hlen : s.txLen.toNat = s.txI.toNat + bytes.length)
    (hbytes : ∀ k, k < bytes.length → s.txbuf.read? (s.txI.toNat + k) = bytes[k]?) :
    EngineInv (sendWhole bytes s) := by
  have hs := h.sending hsend
  have hstores := storesInv h
  refine (engineInv_iff _).mpr ⟨?_, rfl, fun e => ?_, fun _ => ?_⟩
  · refine ⟨⟨hstores.buffers.payloadWf, hstores.buffers.payloadBelow, hstores.buffers.txbufWf,
      hstores.buffers.txbufBelow, hstores.buffers.rxbufWf, hstores.buffers.rxbufBelow⟩, hstores.timeoutPositive,
      hstores.timeoutBound, Nat.zero_le _, fun i hi => absurd hi (Nat.not_lt_zero i), hstores.results⟩
  · cases e
  · exact ⟨hs.linkOpen, hs.busOp, rfl, h.timeoutPositive, rfl, emitted_append hs.emitted rfl hlen rfl hbytes⟩

/-- A frame offered whole has not been sent at all. -/
theorem offered_bytes {s : State} {bytes : List Byte} (h : offersFrame bytes s = true) :
    s.seq = .send ∧ s.txLen.toNat = s.txI.toNat + bytes.length ∧
      ∀ k, k < bytes.length → s.txbuf.read? (s.txI.toNat + k) = bytes[k]? := by
  obtain ⟨hsend, htxI, hlen, _, _, hholds⟩ := (offersFrame_iff bytes s).mp h
  have hzero : s.txI.toNat = 0 := by rw [htxI]; rfl
  refine ⟨hsend, by omega, fun k hk => ?_⟩
  rw [hzero]
  exact (holds_iff bytes s.txbuf 0).mp hholds k hk

/-- The last byte of the frame. -/
theorem lastByte_txLen {s : State} (h : SendInv s) (hlast : s.txI + 1#9 = s.txLen) :
    s.txLen.toNat = s.txI.toNat + 1 := by rw [← hlast, txI_succ_toNat h]

/-- A byte that is not the last leaves the rest to send. -/
theorem sendInv_acknowledged {s : State} (h : SendInv s) (hmore : s.txI + 1#9 ≠ s.txLen) :
    SendInv { s with tx := s.tx ++ [s.byteAt .txbuf s.txI.toNat], txI := s.txI + 1#9 } where
  linkOpen := h.linkOpen
  busOp := h.busOp
  index := by
    show (s.txI + 1#9).toNat < s.txLen.toNat
    have hindex := h.index
    have hne : (s.txI + 1#9).toNat ≠ s.txLen.toNat := fun e => hmore (BitVec.eq_of_toNat_eq e)
    rw [txI_succ_toNat h] at hne ⊢
    omega
  shortest := h.shortest
  longest := h.longest
  written := h.written
  emitted := emitted_append h.emitted rfl (txI_succ_toNat h) rfl (read?_singleton_txI h)

/-! ### Accepting a command -/

/-- A frame just loaded is a frame to send. -/
theorem sendInv_loadFrame {s : State} {frame : List Byte} (hlink : s.link = true) (hop : (busOpOf s.op).isSome = true)
    (hlen : 5 ≤ frame.length ∧ frame.length ≤ 259) : SendInv (loadFrame frame s) := by
  have htxLen : (BitVec.ofNat 9 frame.length).toNat = frame.length := Nat.mod_eq_of_lt (by omega)
  refine ⟨hlink, hop, ?_, by rw [loadFrame_txLen, htxLen]; exact hlen.1, by rw [loadFrame_txLen, htxLen]; exact hlen.2,
    fun i hi => ?_, s.tx, [], (List.append_nil s.tx).symm, rfl, fun i hi => absurd hi (Nat.not_lt_zero i)⟩
  · rw [loadFrame_txLen, htxLen]
    show 0 < frame.length
    omega
  · rw [loadFrame_txLen, htxLen] at hi
    rw [loadFrame_txbuf, read?_writeBlock, if_pos (by omega), List.getElem?_eq_getElem (by omega)]
    rfl

/-- Accepting a command keeps the invariant. -/
theorem engineInv_accepted {op : BitVec 4} {tmo : BitVec 32} {s t : State} (h : EngineInv s) (hop : s.op = op)
    (ht : Accepted op tmo s t) : EngineInv t := by
  cases ht with
  | failed code hcode =>
    refine engineInv_ended (storesInv h) h.receiver (resultsInv_code h.results ?_ ?_ (by simp))
    · rcases hcode with rfl | rfl | rfl <;> simp
    · rcases hcode with rfl | rfl | rfl <;> simp
  | timeoutSet _ hpos =>
    have hbounds : 1 ≤ tmo.toNat ∧ tmo.toNat < 2 ^ 31 := by
      rw [BitVec.toInt_eq_toNat_cond] at hpos
      split at hpos <;> omega
    obtain ⟨⟨b1, b2, b3, b4, b5, b6⟩, _, _, hcount, hwritten, hres⟩ := storesInv h
    have hstores : StoresInv { s with timeout := tmo } :=
      ⟨⟨b1, b2, b3, b4, b5, b6⟩, hbounds.1, hbounds.2, hcount, hwritten, hres⟩
    exact engineInv_ended hstores h.receiver (resultsInv_code hres (by simp) (by simp) (by simp))
  | frameLoaded bus frame hbus hlink hframe =>
    have hlen := buildFrame_length hframe
    rw [muxState_frame]
    obtain ⟨⟨b1, b2, b3, b4, b5, b6⟩, htpos, htmax, hcount, hwritten, hres⟩ := storesInv h
    refine (engineInv_iff _).mpr ⟨?_, h.receiver, fun _ => ?_, fun e => by cases e⟩
    · exact ⟨⟨b1, b2, wf_writeBlock _ b3 _, below_writeBlock _ b4 (by omega), b5, b6⟩, htpos, htmax, hcount, hwritten,
        hres⟩
    · exact sendInv_loadFrame hlink (by show (busOpOf s.op).isSome = true; rw [hop, hbus]; rfl) hlen

/-- Loading the operands clears the results, which is a legal value of them. -/
theorem engineInv_loadOperands {s : State} (h : EngineInv s) (hidle : s.seq = .idle) (op : BitVec 4) (a : Byte)
    (sec : SecAddr) (n : BitVec 16) (words : List CommandWord) :
    EngineInv (loadOperands op a sec n { s with cmdPort := words }) :=
  engineInv_of_idle (storesInv_congr (storesInv h) {} ⟨by simp, by simp, by simp, by simp⟩) h.receiver hidle

/-! ### The events -/

/-- The state after a reset meets the invariant. -/
theorem engineInv_hardReset (l : Bool) (s : State) : EngineInv (hardReset l s) := by
  have hcleared : ResultsInv {} := ⟨by simp, by simp, by simp, by simp⟩
  refine engineInv_of_idle ⟨⟨rfl, rfl, rfl, rfl, rfl, rfl⟩, ?_, ?_, Nat.zero_le _,
    fun i hi => absurd hi (Nat.not_lt_zero i), hcleared⟩ rfl rfl
  · show 1 ≤ (300#32).toNat
    decide
  · show (300#32).toNat < 2 ^ 31
    decide

theorem resultsInv_sendFailure {s : State} (h : ResultsInv s.res) : ResultsInv (HalfDuplex.sendFailureResults s) := by
  unfold HalfDuplex.sendFailureResults
  split
  · exact resultsInv_code h (by simp) (by simp) (by simp)
  · exact resultsInv_code h (by simp) (by simp) (by simp)

/-- The tick at the timeout keeps the invariant. -/
theorem engineInv_expired {s : State} (h : EngineInv s) : EngineInv (expired s) := by
  refine engineInv_ended (storesInv_congr (storesInv h) {} h.results) ?_ (resultsInv_code h.results ?_ ?_ (by simp))
  · by_cases hrxn : s.rxn = 0#9
    · simp only [if_pos hrxn]
      show s.rxn.toNat = 0
      rw [hrxn]
      rfl
    · simp only [if_neg hrxn]
      exact Nat.pos_of_ne_zero fun e => hrxn (BitVec.eq_of_toNat_eq e)
  · unfold expiryCode
    repeat' split
    all_goals simp
  · unfold expiryCode
    repeat' split
    all_goals simp

/-- Bytes that arrive keep the invariant. -/
theorem engineInv_arrive {s : State} (h : EngineInv s) (bytes : List Byte) : EngineInv (arrive bytes s) :=
  feed_induction (fun b _ hready hu => engineInv_takeByte hu hready b) (fun _ _ hu => engineInv_congr hu {} id) _ _
    (engineInv_congr h {} id)

/-- Every case of an event keeps the invariant. -/
theorem engineInv_taken {s t : State} {e : Event} (h : EngineInv s) (ht : Taken s e t) : EngineInv t := by
  have hstores := storesInv h
  cases ht with
  | unchanged => exact engineInv_congr h {} id
  | reset l => exact engineInv_hardReset l s
  | linkOpened => exact engineInv_congr h {} (fun _ => rfl)
  | linkClosedIdle hidle => exact engineInv_of_idle (storesInv_congr hstores {} h.results) h.receiver hidle
  | linkClosedSend =>
    exact engineInv_ended (storesInv_congr hstores {} h.results) h.receiver (resultsInv_sendFailure h.results)
  | linkClosedRecv =>
    exact engineInv_ended (storesInv_congr hstores {} h.results) h.receiver
      (resultsInv_code h.results (by simp) (by simp) (by simp))
  | payloadWritten i v hi =>
    obtain ⟨⟨b1, b2, b3, b4, b5, b6⟩, htpos, htmax, hcount, hwritten, hres⟩ := hstores
    refine (engineInv_iff _).mpr ⟨⟨⟨wf_write b1 _ _, below_write b2 hi, b3, b4, b5, b6⟩, htpos, htmax, hcount, hwritten,
      hres⟩, h.receiver, fun e => ?_, fun e => ?_⟩
    · exact sendInv_congr (h.sending e) {} (h.sending e).linkOpen
    · exact recvInv_congr (h.receiving e) {} (h.receiving e).linkOpen (h.receiving e).waits (h.receiving e).notExpired
  | commandAccepted _ w words _ hidle _ hacc =>
    exact engineInv_accepted (engineInv_loadOperands h hidle _ _ _ _ words) rfl hacc
  | acknowledged hsend hmore =>
    refine (engineInv_iff _).mpr ⟨storesInv_congr hstores {} h.results, h.receiver,
      fun _ => sendInv_acknowledged (h.sending hsend) hmore, fun e => ?_⟩
    exact absurd (hsend.symm.trans e) (by simp)
  | acknowledgedLast hsend hlast =>
    exact engineInv_sendWhole h hsend (lastByte_txLen (h.sending hsend) hlast) (read?_singleton_txI (h.sending hsend))
  | sendFailed => exact engineInv_ended hstores h.receiver (resultsInv_sendFailure h.results)
  | byteAccepted _ b bytes _ hready =>
    exact engineInv_takeByte (s := { s with rxHeld := bytes }) (engineInv_congr h {} id) hready b
  | ticked hwaits hbelow =>
    obtain ⟨hrecv, _⟩ := (receiverWaits_iff s).mp hwaits
    have hr := h.receiving hrecv
    refine (engineInv_iff _).mpr ⟨storesInv_congr hstores {} h.results, h.receiver, fun e => ?_,
      fun _ => recvInv_congr hr {} hr.linkOpen hr.waits (BitVec.lt_def.mp hbelow)⟩
    exact absurd (hrecv.symm.trans e) (by simp)
  | expired => exact engineInv_expired h
  | frameSent bytes hoffers =>
    obtain ⟨hsend, hlen, hbytes⟩ := offered_bytes hoffers
    exact engineInv_sendWhole h hsend hlen hbytes
  | frameArrived bytes => exact engineInv_arrive h bytes

/-- The pulses, the draws and the events to come do not matter to the invariant. -/
theorem engineInv_stepBase {s : State} (h : EngineInv s) : EngineInv (stepBase s) := engineInv_congr h {} id

/-- In a sound state every event leads on: `TXI` is an index of `TXBUF` while sending (R67). -/
theorem exists_next_of_onEvent {s : State} (h : EngineInv s) (e : Event) : ∃ t, onEvent e s = .next t := by
  cases e with
  | cmd w =>
    rcases takeHeldCommand_cases (holdCommand w s) with ⟨_, hn⟩ | ⟨_, _, _, _, hn⟩ <;> exact ⟨_, hn⟩
  | offerCommand =>
    rcases takeHeldCommand_cases s with ⟨_, hn⟩ | ⟨_, _, _, _, hn⟩ <;> exact ⟨_, hn⟩
  | txack =>
    by_cases hsend : s.seq = .send
    · obtain ⟨t, ht, _⟩ := Ports.takeAck_of_sendInv hsend (h.sending hsend)
      exact ⟨t, ht⟩
    · exact ⟨s, if_neg hsend⟩
  | rxbyte b =>
    rcases takeHeldByte_cases (holdBytes [b] s) with ⟨_, hn⟩ | ⟨_, _, _, _, hn⟩ <;> exact ⟨_, hn⟩
  | offerByte =>
    rcases takeHeldByte_cases s with ⟨_, hn⟩ | ⟨_, _, _, _, hn⟩ <;> exact ⟨_, hn⟩
  | frame bytes => exact ⟨_, onFrame_eq_transferFrame bytes s⟩
  | _ => exact ⟨_, rfl⟩

/-! ### The obligations on the invariant -/

/-- Settles O51: the reset state is the state after a reset. -/
theorem resetStateIsSound : Obligations.ResetStateIsSound := engineInv_hardReset true State.reset

/-- Settles O52, by the cases of a step. -/
theorem stepKeepsTheEngineInvariant : Obligations.StepKeepsTheEngineInvariant := fun _ _ hinv hstep =>
  engineInv_taken (engineInv_stepBase hinv) (taken_of_step hstep)

/-- A run goes on from where its first step leads. -/
theorem run_succ_of_step {s t : State} (h : step s = .next t) (n : Nat) : core.run (n + 1) s = core.run n t := by
  have hcore : core.step s = .next t := h
  simp only [Host.Core.run]
  rw [hcore]

/-- Settles O53, by induction on the number of steps: a sound state leads on, to a sound state. -/
theorem soundStatesNeverStop : Obligations.SoundStatesNeverStop := by
  intro s hinv n
  induction n generalizing s with
  | zero => exact ⟨s, rfl⟩
  | succ n ih =>
    obtain ⟨t, ht⟩ := exists_next_of_onEvent (engineInv_stepBase hinv) (nextEvent s)
    have hstep : step s = .next t := ht
    obtain ⟨u, hu⟩ := ih t (stepKeepsTheEngineInvariant s t hinv hstep)
    exact ⟨u, by rw [run_succ_of_step hstep, hu]⟩

/-- Settles O18, row by row. -/
theorem rxByteAdvancesTheLength : Obligations.RxByteAdvancesTheLength := by
  intro b s hinv hready
  obtain ⟨hseq, hwaits, _⟩ := (rxReady_iff s).mp hready
  refine ⟨takeByte b s, exec_rxByte_ready hready b, ?_⟩
  cases byteRow_of_engineInv hinv hwaits b with
  | start hrxs hb ht => rw [ht]; simp [hrxs, hb, hseq]
  | length hrxs hstart _ ht => rw [ht]; simpa [hrxs, hstart, hseq] using lengthOf_toNat b
  | unknown hrxs hstart ht => rw [ht]; simp [hrxs, hstart, hseq]
  | known hrxs hmore ht => rw [ht]; simp [hrxs, hmore, hseq]
  | completes hc ht =>
    obtain ⟨op, hop⟩ := Option.isSome_iff_exists.mp (hinv.receiving hseq).busOp
    have hend : (takeByte b s).rxs = .complete ∧ (takeByte b s).rxexp = s.rxn + 1#9 := by
      rw [takeByte_ends hc hop, completeFcb_frame, completed_frame]
      exact ⟨rfl, rfl⟩
    rcases hc with ⟨hrxs, hrxn, hb⟩ | ⟨hrxs, hlast⟩
    · subst hb
      simp [hrxs, hend, hrxn]
    · simp [hrxs, hend, hlast]

/-- Settles O44, by whether a byte remains. -/
theorem acknowledgedByteLeaves : Obligations.AcknowledgedByteLeaves := by
  intro s hinv
  simp only [Ports.runEvents_singleton]
  refine ⟨fun hsend => ?_, fun hnot => if_neg hnot⟩
  have hs := hinv.sending hsend
  have hcount := txI_succ_toNat hs
  have hread := read?_byteAt_txI hs
  have hin : s.txI.toNat < 261 := by
    have hindex := hs.index
    have hlongest := hs.longest
    omega
  refine ⟨_, hread, fun hmore => ?_, fun hlast => ?_⟩
  · refine onAck_of_more hsend hin hread fun e => ?_
    rw [← e, hcount] at hmore
    omega
  · exact onAck_of_last hsend hin hread (BitVec.eq_of_toNat_eq (hcount.trans hlast))

/-! ### What leaves on the line (O59) -/

/-- `t` has the trace of `s` with the next bytes of `TXBUF` behind it. -/
def Appends (s t : State) : Prop :=
  ∃ l : List Byte, t.tx = s.tx ++ l ∧ (∀ k, k < l.length → s.txbuf.read? (s.txI.toNat + k) = l[k]?) ∧
    (l ≠ [] → s.seq = .send ∧ t.txI.toNat = s.txI.toNat + l.length)

theorem appends_of_same {s t : State} (h : t.tx = s.tx) : Appends s t :=
  ⟨[], by rw [h, List.append_nil], fun k hk => absurd hk (Nat.not_lt_zero k), fun hne => absurd rfl hne⟩

theorem appends_sendWhole {s : State} {bytes : List Byte} (hsend : s.seq = .send)
    (hlen : s.txLen.toNat = s.txI.toNat + bytes.length)
    (hbytes : ∀ k, k < bytes.length → s.txbuf.read? (s.txI.toNat + k) = bytes[k]?) : Appends s (sendWhole bytes s) :=
  ⟨bytes, rfl, hbytes, fun _ => ⟨hsend, hlen⟩⟩

theorem accepted_tx {op : BitVec 4} {tmo : BitVec 32} {s t : State} (h : Accepted op tmo s t) : t.tx = s.tx := by
  cases h with
  | failed => rfl
  | timeoutSet => rfl
  | frameLoaded bus => rw [muxState_frame]; rfl

theorem arrive_tx (bytes : List Byte) (s : State) : (arrive bytes s).tx = s.tx := by
  refine feed_induction (P := fun u => u.tx = s.tx) (fun b u _ h => ?_) (fun _ _ h => h) _ _ rfl
  rw [takeByte_frame]
  exact h

theorem appends_of_taken {s t : State} {e : Event} (hinv : EngineInv s) (h : Taken s e t) (he : ∀ l, e ≠ .reset l) :
    Appends s t := by
  cases h with
  | reset l => exact absurd rfl (he l)
  | commandAccepted _ _ _ _ _ _ ht => exact appends_of_same ((accepted_tx ht).trans rfl)
  | acknowledged hsend _ =>
    have hs := hinv.sending hsend
    exact ⟨[s.byteAt .txbuf s.txI.toNat], rfl, read?_singleton_txI hs, fun _ => ⟨hsend, txI_succ_toNat hs⟩⟩
  | acknowledgedLast hsend hlast =>
    have hs := hinv.sending hsend
    exact appends_sendWhole hsend (lastByte_txLen hs hlast) (read?_singleton_txI hs)
  | byteAccepted _ b bytes =>
    refine appends_of_same ?_
    rw [takeByte_frame]
  | frameSent bytes hoffers =>
    obtain ⟨hsend, hlen, hbytes⟩ := offered_bytes hoffers
    exact appends_sendWhole hsend hlen hbytes
  | frameArrived bytes => exact appends_of_same (arrive_tx bytes s)
  | _ => exact appends_of_same rfl

/-- Settles O59, by the cases of a step. -/
theorem bytesLeaveInBufferOrder : Obligations.BytesLeaveInBufferOrder := fun s _ hinv hstep hnoReset =>
  appends_of_taken (s := stepBase s) (engineInv_stepBase hinv) (taken_of_step hstep) hnoReset

end Soundness

end Sys2Proof.Machine

/-! PROOFS. The frame-count-bit registry and the field multiplexer invoked by themselves (spec/41_fcb_registry.md R111
to R114, spec/43_field_mux_and_operations.md R140): O12 to O14, O24. -/

namespace Sys2Proof.Machine

namespace Registry

open Sys2Proof.Machine.Laws

/-! ### Sequences of calls -/

/-- The state after one call of `FCB_NEXT(a)`. -/
def afterCall (a : Byte) (s : State) : State := answer (.controlField (fcbControl a s)) (fcbFlip a s)

/-- The state after a sequence of calls. -/
def afterCalls (calls : List Byte) (s : State) : State := calls.foldl (fun u a => afterCall a u) s

theorem exec_fcbNext (a : Byte) (s : State) : exec (.fcbNext a) s = .next (afterCall a s) := rfl

theorem runInstrs_fcbNext (calls : List Byte) (s : State) :
    runInstrs (calls.map Instr.fcbNext) s = .next (afterCalls calls s) := by
  induction calls generalizing s with
  | nil => rfl
  | cons a calls ih => exact ih (afterCall a s)

theorem fcbBit_afterCall (a b : Byte) (s : State) :
    fcbBit (afterCall a s) b = if b = a then !fcbBit s a else fcbBit s b := fcbBit_fcbFlip a b s

/-- A latch is inverted once for each call of its own address. -/
theorem fcbBit_afterCalls (calls : List Byte) (a : Byte) (s : State) :
    fcbBit (afterCalls calls s) a = (fcbBit s a ^^ decide (calls.count a % 2 = 1)) := by
  induction calls generalizing s with
  | nil => simp [afterCalls]
  | cons c calls ih =>
    have hrest : fcbBit (afterCalls (c :: calls) s) a =
        (fcbBit (afterCall c s) a ^^ decide (calls.count a % 2 = 1)) := ih (afterCall c s)
    rw [hrest, fcbBit_afterCall]
    by_cases hc : a = c
    · subst hc
      have hodd : decide ((calls.count a + 1) % 2 = 1) = !decide (calls.count a % 2 = 1) := by
        rw [← decide_not]
        exact decide_eq_decide.mpr (by omega)
      rw [if_pos rfl, List.count_cons_self, hodd]
      cases fcbBit s a <;> simp
    · rw [if_neg hc, List.count_cons_of_ne (fun e => hc e.symm)]

/-! ### The obligations -/

/-- Settles O12: one call answers by the latch and inverts it. -/
theorem fcbNextAnswersAndInverts : Obligations.FcbNextAnswersAndInverts := fun a s =>
  ⟨afterCall a s, exec_fcbNext a s, rfl, fun b => fcbBit_afterCall a b s, rfl⟩

/-- Settles O13, by induction on the calls. -/
theorem fcbSequencesAreIndependent : Obligations.FcbSequencesAreIndependent := by
  intro calls a s
  have hlatch := fcbBit_afterCalls calls a s
  refine ⟨afterCalls calls s, runInstrs_fcbNext calls s, hlatch, afterCalls (calls ++ [a]) s, runInstrs_fcbNext _ s, ?_⟩
  rw [← hlatch, afterCalls, List.foldl_append]
  rfl

/-- Settles O14, from the laws of the latches. -/
theorem fcbResetAndInitSetLatches : Obligations.FcbResetAndInitSetLatches := fun s =>
  ⟨fun a => ⟨fcbSetOne a s, rfl, fun b => fcbBit_fcbSetOne a b s, rfl⟩,
    fcbSetAll s, rfl, fun b => fcbBit_fcbSetAll b s, rfl⟩

/-- Settles O24, row by row of the table. -/
theorem muxSelectsTheFields : Obligations.MuxSelectsTheFields := by
  intro s
  refine ⟨⟨answer (.fields (muxFields .poll s)) (fcbFlip s.addr s), rfl, rfl,
    fun b => fcbBit_fcbFlip s.addr b s, rfl⟩, ?_⟩
  simp only [List.forall_mem_cons]
  exact ⟨rfl, rfl, rfl, rfl, rfl, rfl, rfl, fun _ h => absurd h List.not_mem_nil⟩

end Registry

end Sys2Proof.Machine

/-! PROOFS. Accepting a command (spec/43_field_mux_and_operations.md R142 to R153, spec/44_session_control.md R170 to
R174): the frame each bus operation builds, the commands that end in the accepting step, and the command that has to
wait (O34 to O37, O39, O40, O42). -/

namespace Sys2Proof.Machine

namespace Requests

open Sys2Proof.Machine.Laws Sys2Proof.Machine.FrameCodec Sys2Proof.Machine.SessionGate

/-! ### The frames as the spec writes them -/

/-- The short frame of R71 is the model's, with the checksum over `CF` and `AF`. -/
theorem encShort_eq_spec (af cf : Byte) : encShort af cf = specShortFrame cf af := by
  have hsum : sum8 [cf, af] = BitVec.ofNat 8 ((cf.toNat + af.toNat) % 256) := by
    rw [sum8_eq_ofNat_byteSum]
    simp only [byteSum_cons, byteSum_nil, Nat.add_zero]
  rw [encShort, hsum]
  rfl

/-- A long frame is built when its payload fits (R102, R141). -/
theorem buildFrame_long {cf af ci : Byte} {src : PayloadSource} {s : State} {p : List Byte}
    (hp : sourceBytes s src = p) (hfits : sourceLength src ≤ 250) (hlen : p.length ≤ 250) :
    buildFrame (.long cf af ci src) s = some (specLongFrame cf af ci p) := by
  rw [buildFrame, if_pos hfits, hp, encLong_of_le hlen]

/-- The payload bytes of the host are those of `PAYLOAD` at this moment (R141). -/
theorem sourceBytes_hostPayload (s : State) (n : BitVec 16) :
    sourceBytes s (.hostPayload n) = (List.range n.toNat).map (fun k => s.byteAt .payload k) := by
  simp only [sourceBytes, State.bytesAt, Nat.zero_add]

theorem buildFrame_hostPayload {cf af ci : Byte} {n : BitVec 16} (h : n.toNat ≤ 250) (s : State) :
    buildFrame (.long cf af ci (.hostPayload n)) s =
      some (specLongFrame cf af ci ((List.range n.toNat).map (fun k => s.byteAt .payload k))) :=
  buildFrame_long (sourceBytes_hostPayload s n) h (by simpa using h)

theorem buildFrame_secondary (cf af ci : Byte) (s : State) :
    buildFrame (.long cf af ci .secondary) s = some (specLongFrame cf af ci (secBytes s.sec)) :=
  buildFrame_long rfl (by decide) (by simp [secBytes])

/-! ### Accepting a bus command with the link open -/

/-- A bus command whose frame can be built leaves it in `TXBUF` and begins to send; its row of `MUX` may have inverted
a latch (R142). -/
theorem exec_busInstr_built {op : BusOp} {a : Byte} {sc : SecAddr} {n : BitVec 16} {tm : BitVec 32} {s : State}
    {frame : List Byte} (hidle : s.seq = .idle) (hlink : s.link = true)
    (hframe : buildFrame (muxFields op (loadOperands (opcodeOf op) a sc n s))
      (muxState op (loadOperands (opcodeOf op) a sc n s)) = some frame) :
    ∃ t, exec (busInstr op a sc n tm) s = .next t ∧ FrameBuilt (opcodeOf op) a sc n frame s t ∧
      t.fcb = (muxState op (loadOperands (opcodeOf op) a sc n s)).fcb := by
  refine ⟨loadFrame frame (muxState op (loadOperands (opcodeOf op) a sc n s)), ?_, ⟨?_, fun i => ?_⟩, rfl⟩
  · have hopen : (loadOperands (opcodeOf op) a sc n s).link = true := hlink
    rw [exec_busInstr, acceptCommand_idle hidle, startBus, if_pos hopen, hframe]
  · rw [muxState_frame]
    rfl
  · have htxbuf : (muxState op (loadOperands (opcodeOf op) a sc n s)).txbuf = s.txbuf := by
      rw [muxState_frame]
      rfl
    rw [loadFrame_txbuf, read?_writeBlock, htxbuf]
    simp

/-- A payload that is too long ends the command in the accepting step, before any byte of it is read (R102, R142). -/
theorem exec_busInstr_tooLarge {op : BusOp} {a : Byte} {sc : SecAddr} {n : BitVec 16} {tm : BitVec 32} {s : State}
    (hidle : s.seq = .idle) (hlink : s.link = true)
    (hnone : buildFrame (muxFields op (loadOperands (opcodeOf op) a sc n s))
      (muxState op (loadOperands (opcodeOf op) a sc n s)) = none) :
    exec (busInstr op a sc n tm) s = .next (raise .payloadTooLarge (loadOperands (opcodeOf op) a sc n s)) := by
  have hopen : (loadOperands (opcodeOf op) a sc n s).link = true := hlink
  rw [exec_busInstr, acceptCommand_idle hidle, startBus, if_pos hopen, hnone,
    Transitions.muxState_of_buildFrame_none hnone]

/-! ### The obligations -/

/-- Settles O34: the POLL row answers by the latch and inverts it. -/
theorem pollBuildsItsRequest : Obligations.PollBuildsItsRequest := by
  intro a sc n tm s hidle hlink
  obtain ⟨t, ht, hbuilt, hfcb⟩ := exec_busInstr_built (op := .poll) (a := a) (sc := sc) (n := n) (tm := tm) hidle hlink
    (congrArg some (encShort_eq_spec a (if fcbBit s a then 0x7B#8 else 0x5B#8)))
  refine ⟨t, ht, hbuilt, fun b => ?_⟩
  rw [fcbBit_congr b hfcb]
  exact fcbBit_fcbFlip a b (loadOperands 0x1#4 a sc n s)

/-- Settles O35, the three rows whose payload is the host's. -/
theorem payloadCommandsBuildTheirRequests : Obligations.PayloadCommandsBuildTheirRequests := by
  intro a sc n tm s hidle hlink hn p
  have hframe : ∀ (op : BitVec 4) (cf ci : Byte),
      buildFrame (.long cf a ci (.hostPayload n)) (loadOperands op a sc n s) = some (specLongFrame cf a ci p) :=
    fun op cf ci => buildFrame_hostPayload hn (loadOperands op a sc n s)
  exact ⟨exec_busInstr_built (op := .write) hidle hlink (hframe _ _ _),
    exec_busInstr_built (op := .selro) hidle hlink (hframe _ _ _),
    exec_busInstr_built (op := .rstro) hidle hlink (hframe _ _ _)⟩

/-- Settles O36, the three rows whose payload is the secondary address. -/
theorem secondaryCommandsBuildTheirRequests : Obligations.SecondaryCommandsBuildTheirRequests := by
  intro a sc n tm s hidle hlink p
  have hp : secBytes sc = p := rfl
  have hframe : ∀ (op : BitVec 4) (ci : Byte),
      buildFrame (.long 0x53#8 0xFD#8 ci .secondary) (loadOperands op a sc n s) =
        some (specLongFrame 0x53#8 0xFD#8 ci p) := fun op ci => by
    rw [buildFrame_secondary, loadOperands_sec, hp]
  exact ⟨exec_busInstr_built (op := .select) hidle hlink (hframe _ _),
    exec_busInstr_built (op := .deselect) hidle hlink (hframe _ _),
    exec_busInstr_built (op := .scan) hidle hlink (hframe _ _)⟩

/-- Settles O37, the row with the fixed control field of `SND_NKE`. -/
theorem linkResetBuildsItsRequest : Obligations.LinkResetBuildsItsRequest := fun a _ _ _ _ hidle hlink =>
  exec_busInstr_built (op := .linkreset) hidle hlink (congrArg some (encShort_eq_spec a 0x40#8))

/-- Settles O39, the three rows whose payload can be too long. -/
theorem longPayloadIsTooLarge : Obligations.LongPayloadIsTooLarge := by
  intro op a sc n tm s hop hidle hlink hlong
  have hnone : ∀ cf af ci u, buildFrame (.long cf af ci (.hostPayload n)) u = none :=
    fun _ _ _ _ => if_neg (Nat.not_le_of_lt hlong)
  refine ⟨_, exec_busInstr_tooLarge hidle hlink ?_, ReservedOpcodes.endedAtAcceptance_raise ..⟩
  rcases hop with rfl | rfl | rfl <;> exact hnone _ _ _ _

/-- Settles O40, by the sign of the operand. -/
theorem setTimeoutWritesAPositiveNumber : Obligations.SetTimeoutWritesAPositiveNumber := by
  intro a sc n tm s hidle
  have hexec : exec (.settimeout a sc n tm) s = .next (setTimeout tm (loadOperands 0x9#4 a sc n s)) :=
    acceptCommand_idle hidle ..
  rw [hexec]
  rcases setTimeout_cases tm (loadOperands 0x9#4 a sc n s) with ⟨hbad, h⟩ | ⟨hgood, h⟩ <;> rw [h]
  · refine ⟨fun hpos => ?_, fun _ => ⟨_, rfl, ReservedOpcodes.endedAtAcceptance_raise ..⟩⟩
    rw [(Transitions.toInt_pos_iff tm).mp hpos] at hbad
    cases hbad
  · refine ⟨fun _ => ⟨_, rfl, rfl⟩, fun hneg => ?_⟩
    exact absurd ((Transitions.toInt_pos_iff tm).mpr hgood) (not_lt.mpr hneg)

/-- Settles O42: a busy engine leaves the word with the host, and a command word is made of its fields. -/
theorem busyEngineAcceptsNoCommand : Obligations.BusyEngineAcceptsNoCommand := by
  intro w s hbusy
  rw [decodeCommand, exec_commandOf, acceptCommand_busy hbusy, commandWord_fields]
  rfl

end Requests

end Sys2Proof.Machine

/-! PROOFS. Frames crossing the line (spec/43_field_mux_and_operations.md R143, R155, spec/42_response_receiver.md R122,
R127): a frame sent is its acknowledgements, a frame that arrives is its bytes (O25 to O28). -/

namespace Sys2Proof.Machine

namespace Line

open Sys2Proof.Machine.Laws Sys2Proof.Machine.Receiver

/-! ### Runs of events -/

theorem runEvents_cons {e : Event} {s t : State} (h : onEvent e s = .next t) (es : List Event) :
    runEvents (e :: es) s = runEvents es t := by
  rw [runEvents, h]

theorem runEvents_append {es : List Event} {s t : State} (h : runEvents es s = .next t) (fs : List Event) :
    runEvents (es ++ fs) s = runEvents fs t := by
  induction es generalizing s with
  | nil =>
    cases h
    rfl
  | cons e es ih =>
    cases he : onEvent e s with
    | next u =>
      rw [runEvents_cons he] at h
      rw [List.cons_append, runEvents_cons he]
      exact ih h
    | fault r =>
      rw [runEvents, he] at h
      cases h
    | refused r =>
      rw [runEvents, he] at h
      cases h

/-! ### Sending (R143) -/

theorem transferFrame_offered {bytes : List Byte} {s : State} (h : offersFrame bytes s = true) :
    transferFrame bytes s = .next (sendWhole bytes s) := congrArg Host.Outcome.next (if_pos h)

theorem transferFrame_arrives {bytes : List Byte} {s : State} (h : offersFrame bytes s = false) :
    transferFrame bytes s = .next (arrive bytes s) := congrArg Host.Outcome.next (if_neg (by simp [h]))

/-- The acknowledgements of the bytes still to send take them out in order and arm the receiver. -/
theorem runEvents_txacks {s : State} (rest : List Byte) (hsend : s.seq = .send) (hne : rest ≠ [])
    (hlen : s.txLen.toNat = s.txI.toNat + rest.length) (hmax : s.txLen.toNat ≤ 261)
    (hrest : ∀ k, k < rest.length → s.txbuf.read? (s.txI.toNat + k) = rest[k]?) :
    runEvents (List.replicate rest.length .txack) s = .next (sendWhole rest s) := by
  induction rest generalizing s with
  | nil => exact absurd rfl hne
  | cons b rest ih =>
    rw [List.length_cons] at hlen
    have hin : s.txI.toNat < 261 := by omega
    have hnext : (s.txI + 1#9).toNat = s.txI.toNat + 1 := by bv_omega
    have hread : s.txbuf.read? s.txI.toNat = some b := hrest 0 (Nat.succ_pos _)
    rw [List.length_cons, List.replicate_succ]
    cases rest with
    | nil =>
      have hlast : s.txI + 1#9 = s.txLen := BitVec.eq_of_toNat_eq (hnext.trans hlen.symm)
      exact runEvents_cons (Soundness.onAck_of_last hsend hin hread hlast) []
    | cons c rest =>
      have hmore : s.txI + 1#9 ≠ s.txLen := fun e => by
        rw [← e, hnext, List.length_cons] at hlen
        omega
      rw [runEvents_cons (Soundness.onAck_of_more hsend hin hread hmore),
        ih (s := { s with tx := s.tx ++ [b], txI := s.txI + 1#9 }) hsend (by simp)
          (by show s.txLen.toNat = (s.txI + 1#9).toNat + _; omega) hmax (fun k hk => ?_)]
      · have htx : (s.tx ++ [b]) ++ c :: rest = s.tx ++ b :: c :: rest := by simp
        exact congrArg (fun l => Host.Outcome.next (armReceiver { s with tx := l, txI := s.txLen, seq := .recv })) htx
      · show s.txbuf.read? ((s.txI + 1#9).toNat + k) = _
        rw [hnext, Nat.add_assoc, Nat.add_comm 1 k, hrest (k + 1) (by simpa using hk), List.getElem?_cons_succ]

/-- The acknowledgements of an offered frame. -/
theorem runEvents_txacks_offered {bytes : List Byte} {s : State} (h : offersFrame bytes s = true) :
    runEvents (List.replicate bytes.length .txack) s = .next (sendWhole bytes s) := by
  obtain ⟨hsend, hlen, hbytes⟩ := Soundness.offered_bytes h
  obtain ⟨_, _, hwhole, hne, hmax, _⟩ := (offersFrame_iff bytes s).mp h
  exact runEvents_txacks bytes hsend hne hlen (by omega) hbytes

/-! ### What the transport holds does not matter to an accepted byte -/

/-- The state with other bytes at the transport. -/
def withHeld (q : List Byte) (s : State) : State := { s with rxHeld := q }

theorem withHeld_self {s : State} {q : List Byte} (h : s.rxHeld = q) : withHeld q s = s := by
  rw [← h]
  rfl

theorem learnLength_withHeld (q : List Byte) (b : Byte) (s : State) :
    learnLength b (withHeld q s) = withHeld q (learnLength b s) := by
  have hrxs : (withHeld q s).rxs = s.rxs := rfl
  have hbyte : (withHeld q s).byteAt .rxbuf 0 = s.byteAt .rxbuf 0 := rfl
  unfold learnLength
  rw [hrxs, hbyte]
  cases s.rxs with
  | awaitFirst => dsimp only; split <;> rfl
  | awaitLen => dsimp only; split <;> rfl
  | _ => rfl

theorem classify_withHeld (q : List Byte) (s : State) : classify (withHeld q s) = withHeld q (classify s) := by
  by_cases h : s.rxn = 1#9
  · rw [classify_single h, classify_single (s := withHeld q s) h]
    rfl
  · rw [classify_long h, classify_long (s := withHeld q s) h]
    rfl

theorem completeFcb_withHeld (q : List Byte) (op : BusOp) (s : State) :
    completeFcb op (withHeld q s) = withHeld q (completeFcb op s) := by
  by_cases h : op = .linkreset ∧ s.res.cls = .single
  · have h' : op = .linkreset ∧ (withHeld q s).res.cls = .single := h
    rw [completeFcb, if_pos h', completeFcb, if_pos h]
    rfl
  · rw [completeFcb_other h, completeFcb_other (s := withHeld q s) h]

theorem finishComplete_withHeld (q : List Byte) (s : State) :
    finishComplete (withHeld q s) = withHeld q (finishComplete s) := by
  cases hop : busOpOf s.op with
  | none => rw [finishComplete_none hop, finishComplete_none (s := withHeld q s) hop]
  | some op =>
    rw [finishComplete_some hop, finishComplete_some (s := withHeld q s) hop, completeFcb_withHeld]
    rfl

theorem takeByte_withHeld (q : List Byte) (b : Byte) (s : State) :
    takeByte b (withHeld q s) = withHeld q (takeByte b s) := by
  have hlearn : learnLength b (storeByte b (withHeld q s)) = withHeld q (learnLength b (storeByte b s)) :=
    learnLength_withHeld q b (storeByte b s)
  by_cases h : (learnLength b (storeByte b s)).rxs = .lenKnown ∧
      (learnLength b (storeByte b s)).rxexp = s.rxn + 1#9
  · rw [takeByte_of_checks h, takeByte_of_checks (s := withHeld q s) (by rw [hlearn]; exact h),
      ← finishComplete_withHeld]
    exact congrArg finishComplete
      (classify_withHeld q { storeByte b s with rxexp := s.rxn + 1#9, rxs := .complete })
  · have h' := not_and.mp h
    rw [takeByte_of_not_checks h', takeByte_of_not_checks (s := withHeld q s) (by rw [hlearn]; exact h'), hlearn]

/-! ### Arriving (R122, R127, R207) -/

/-- While nothing is accepted, bytes that come are held. -/
theorem runEvents_blocked {s : State} (h : rxReady s = false) (bytes : List Byte) (n : Nat) :
    runEvents (bytes.map Event.rxbyte ++ List.replicate n .offerByte) s = .next (holdBytes bytes s) := by
  have offering : ∀ u, rxReady u = false → takeHeldByte u = .next u := fun u hu => if_neg (by simp [hu])
  induction bytes generalizing s with
  | nil =>
    rw [holdBytes, List.append_nil]
    induction n with
    | zero => rfl
    | succ n ih => exact (runEvents_cons (e := .offerByte) (offering s h) _).trans ih
  | cons b bytes ih =>
    have hheld : onEvent (.rxbyte b) s = .next (holdBytes [b] s) := offering (holdBytes [b] s) h
    rw [List.map_cons, List.cons_append, runEvents_cons hheld, ih (s := holdBytes [b] s) h]
    simp [holdBytes]

/-- A blocked receiver is fed nothing: all bytes stand behind those held, in order. -/
theorem runEvents_bytes_blocked {s : State} (h : rxReady s = false) (bytes q : List Byte) (n : Nat) :
    runEvents (bytes.map Event.rxbyte ++ List.replicate n .offerByte) (withHeld q s) =
      .next (feed (q ++ bytes) (withHeld [] s)) := by
  rw [runEvents_blocked (s := withHeld q s) h, feed_blocked (s := withHeld [] s) _ h]
  rfl

/-- The offering of the byte held longest. -/
theorem takeHeldByte_withHeld {s : State} (h : rxReady s = true) (b : Byte) (q : List Byte) :
    takeHeldByte (withHeld (b :: q) s) = .next (withHeld q (takeByte b s)) := by
  rw [Transitions.takeHeldByte_ready (s := withHeld (b :: q) s) h rfl, ← takeByte_withHeld]
  exact exec_rxByte_ready (s := withHeld q s) h b

/-- The offering of as many bytes as are held feeds the receiver with them. -/
theorem runEvents_offers (q : List Byte) (n : Nat) (s : State) (h : q.length ≤ n) :
    runEvents (List.replicate n .offerByte) (withHeld q s) = .next (feed q (withHeld [] s)) := by
  induction n generalizing q s with
  | zero =>
    rw [List.length_eq_zero_iff.mp (Nat.le_zero.mp h)]
    rfl
  | succ n ih =>
    rw [List.replicate_succ]
    cases q with
    | nil =>
      have hnothing : onEvent .offerByte (withHeld [] s) = .next (withHeld [] s) := by
        show takeHeldByte _ = _
        rw [takeHeldByte]
        split <;> rfl
      rw [runEvents_cons hnothing]
      exact ih [] s (Nat.zero_le n)
    | cons b q =>
      cases hready : rxReady s with
      | false =>
        rw [← List.replicate_succ]
        simpa using runEvents_bytes_blocked hready [] (b :: q) (n + 1)
      | true =>
        rw [runEvents_cons (e := .offerByte) (takeHeldByte_withHeld hready b q),
          feed_cons_ready (s := withHeld [] s) _ _ hready, takeByte_withHeld]
        exact ih q (takeByte b s) (by simpa using h)

/-- New bytes, and then the offering of as many as are held already, feed the receiver with all of them, those held
first. -/
theorem runEvents_bytes (bytes q : List Byte) (n : Nat) (s : State) (h : q.length ≤ n) :
    runEvents (bytes.map Event.rxbyte ++ List.replicate n .offerByte) (withHeld q s) =
      .next (feed (q ++ bytes) (withHeld [] s)) := by
  induction bytes generalizing q s with
  | nil =>
    rw [List.append_nil]
    exact runEvents_offers q n s h
  | cons c bytes ih =>
    cases hready : rxReady s with
    | false => exact runEvents_bytes_blocked hready (c :: bytes) q n
    | true =>
      obtain ⟨b, q', hq⟩ : ∃ b q', q ++ [c] = b :: q' := List.exists_cons_of_ne_nil (by simp)
      have htake : onEvent (.rxbyte c) (withHeld q s) = .next (withHeld q' (takeByte b s)) := by
        show takeHeldByte (withHeld (q ++ [c]) s) = _
        rw [hq]
        exact takeHeldByte_withHeld hready b q'
      have hlen : q'.length = q.length := by simpa using (congrArg List.length hq).symm
      have hall : q ++ c :: bytes = b :: (q' ++ bytes) := by rw [← List.cons_append, ← hq]; simp
      rw [List.map_cons, List.cons_append, runEvents_cons htake, hall,
        feed_cons_ready (s := withHeld [] s) _ _ hready, takeByte_withHeld]
      exact ih q' (takeByte b s) (hlen ▸ h)

/-- With no byte held, bytes that come feed the receiver. -/
theorem runEvents_rxbytes {s : State} (h : s.rxHeld = []) (bytes : List Byte) :
    runEvents (bytes.map Event.rxbyte) s = .next (feed bytes s) := by
  simpa [withHeld_self h] using runEvents_bytes bytes [] 0 s (Nat.le_refl 0)

/-! ### The wire rows (O25 to O28) -/

/-- Settles O25: an offered row is its frame sent whole. -/
theorem offeredFrameLeavesWhole : Obligations.OfferedFrameLeavesWhole := fun _ _ s henc hoffers =>
  (exec_wire henc s).trans (transferFrame_offered hoffers)

/-- Settles O26: with `rx_ready` low nothing is fed. -/
theorem frameWithoutReceiverIsHeld : Obligations.FrameWithoutReceiverIsHeld := by
  intro i bytes s henc hoffers hblocked
  rw [exec_wire henc, transferFrame_arrives hoffers, arrive, feed_blocked (s := { s with rxHeld := [] }) _ hblocked]
  rfl

/-- Settles O27, by induction on the bytes still to send. -/
theorem sentFrameIsItsAcknowledgements : Obligations.SentFrameIsItsAcknowledgements := fun _ _ s henc hoffers =>
  (exec_wire henc s).trans ((transferFrame_offered hoffers).trans (runEvents_txacks_offered hoffers).symm)

/-- Settles O28, by induction on the bytes that come and on those held. -/
theorem arrivingFrameIsItsBytes : Obligations.ArrivingFrameIsItsBytes := by
  intro i bytes s henc hoffers
  rw [exec_wire henc, transferFrame_arrives hoffers]
  exact (runEvents_bytes bytes s.rxHeld s.rxHeld.length s (Nat.le_refl _)).symm

end Line

end Sys2Proof.Machine

/-! PROOFS. What a just armed receiver makes of a frame (spec/42_response_receiver.md R122, R130, R132): an unknown
start, the single character, the short frames and the long frames, and a poll from its command word to its payload
(O23, O29 to O33). -/

namespace Sys2Proof.Machine

namespace Arrivals

open Sys2Proof.Machine.Laws Sys2Proof.Machine.Receiver Sys2Proof.Machine.Line

/-! ### Runs of bytes -/

/-- Feeding a sequence is feeding its first part and then the rest. -/
theorem feed_append (as bs : List Byte) (s : State) : feed (as ++ bs) s = feed bs (feed as s) := by
  induction as generalizing s with
  | nil => rfl
  | cons a as ih =>
    cases hready : rxReady s with
    | true => rw [List.cons_append, feed_cons_ready _ _ hready, feed_cons_ready _ _ hready, ih]
    | false =>
      rw [feed_blocked _ hready, feed_blocked _ hready, feed_blocked (s := holdBytes (a :: as) s) _ hready]
      simp [holdBytes]

/-- The state with a block of bytes accumulated (R122). -/
def stored (bytes : List Byte) (s : State) : State :=
  { s with
    rxbuf := s.rxbuf.writeBlock s.rxn.toNat bytes
    rxn := BitVec.ofNat 9 (s.rxn.toNat + bytes.length) }

theorem stored_nil (s : State) : stored [] s = s := by
  have h : BitVec.ofNat 9 (s.rxn.toNat + 0) = s.rxn := by simp
  exact congrArg (fun n => { s with rxn := n }) h

theorem stored_cons {s : State} (h : s.rxn.toNat < 511) (b : Byte) (bytes : List Byte) :
    stored bytes (storeByte b s) = stored (b :: bytes) s := by
  have hcount : (s.rxn + 1#9).toNat = s.rxn.toNat + 1 := rxn_succ_toNat h
  simp only [stored, storeByte, hcount, Memory.writeBlock, List.length_cons, Nat.add_assoc, Nat.add_comm 1]

theorem read?_stored (bytes : List Byte) (s : State) (i : Nat) :
    (stored bytes s).rxbuf.read? i =
      if s.rxn.toNat ≤ i ∧ i < s.rxn.toNat + bytes.length then bytes[i - s.rxn.toNat]? else s.rxbuf.read? i :=
  read?_writeBlock _ _ _ _

/-- From an empty buffer the block is what stands first. -/
theorem read?_stored_zero {s : State} (h : s.rxn = 0#9) (bytes : List Byte) (i : Nat) :
    (stored bytes s).rxbuf.read? i = if i < bytes.length then bytes[i]? else s.rxbuf.read? i := by
  have hzero : s.rxn.toNat = 0 := by rw [h]; rfl
  rw [read?_stored, hzero]
  simp

theorem stored_rxn_toNat {bytes : List Byte} {s : State} (h : s.rxn.toNat + bytes.length < 512) :
    (stored bytes s).rxn.toNat = s.rxn.toNat + bytes.length := Nat.mod_eq_of_lt h

/-- The next `m` bytes are accumulated and complete nothing: the start byte is unknown, or the frame is of known length
and longer than that. -/
structure Accumulates (m : Nat) (s : State) : Prop where
  recv : s.seq = .recv
  room : s.rxn.toNat + m ≤ 261
  unfinished : (s.rxs = .awaitLen ∧ 0 < s.rxn.toNat ∧ s.byteAt .rxbuf 0 ≠ 0x68#8) ∨
    (s.rxs = .lenKnown ∧ s.rxn.toNat + m < s.rxexp.toNat)

theorem Accumulates.ready {m : Nat} {s : State} (h : Accumulates (m + 1) s) : rxReady s = true := by
  have hroom := h.room
  refine (rxReady_iff s).mpr ⟨h.recv, ?_, by omega⟩
  rcases h.unfinished with ⟨hrxs, _⟩ | ⟨hrxs, _⟩ <;> rw [hrxs] <;> rfl

theorem Accumulates.takeByte {m : Nat} {s : State} (h : Accumulates (m + 1) s) (b : Byte) :
    takeByte b s = storeByte b s ∧ Accumulates m (storeByte b s) := by
  have hroom := h.room
  have hcount : (s.rxn + 1#9).toNat = s.rxn.toNat + 1 := rxn_succ_toNat (by omega)
  have hroom' : (storeByte b s).rxn.toNat + m ≤ 261 := by
    rw [storeByte_rxn, hcount]
    omega
  rcases h.unfinished with ⟨hrxs, hpos, hstart⟩ | ⟨hrxs, hlen⟩
  · refine ⟨takeByte_unknown hrxs hpos hstart, h.recv, hroom', .inl ⟨hrxs, ?_, ?_⟩⟩
    · rw [storeByte_rxn, hcount]
      exact Nat.succ_pos _
    · rw [byteAt_storeByte_of_lt b hpos]
      exact hstart
  · refine ⟨takeByte_known hrxs fun e => ?_, h.recv, hroom', .inr ⟨hrxs, ?_⟩⟩
    · rw [← e, hcount] at hlen
      omega
    · rw [storeByte_rxn, hcount, storeByte_rxexp]
      omega

theorem feed_accumulates (bytes : List Byte) {s : State} (h : Accumulates bytes.length s) :
    feed bytes s = stored bytes s := by
  induction bytes generalizing s with
  | nil => exact (stored_nil s).symm
  | cons b bytes ih =>
    have hroom := h.room
    rw [List.length_cons] at h hroom
    obtain ⟨hstore, hnext⟩ := Accumulates.takeByte h b
    rw [feed_cons_ready b bytes h.ready, hstore, ih hnext, stored_cons (by omega)]

/-! ### The start of a receive -/

/-- The receiver is at the start of a receive. -/
structure AtStart (s : State) : Prop where
  seq : s.seq = .recv
  rxs : s.rxs = .awaitFirst
  rxn : s.rxn = 0#9

theorem atStart {s : State} (h : JustArmed s) : AtStart s := ⟨h.seq, h.rxs, h.rxn⟩

theorem AtStart.ready {s : State} (h : AtStart s) : rxReady s = true :=
  (rxReady_iff s).mpr ⟨h.seq, by rw [h.rxs]; rfl, by rw [h.rxn]; decide⟩

theorem AtStart.rxn_toNat {s : State} (h : AtStart s) : s.rxn.toNat = 0 := by
  rw [h.rxn]
  rfl

/-- The first byte stands in `RXBUF[0]`. -/
theorem AtStart.byteAt_first {s : State} (h : AtStart s) (b : Byte) : (storeByte b s).byteAt .rxbuf 0 = b := by
  apply byteAt_of_read?
  show (storeByte b s).rxbuf.read? 0 = some b
  rw [read?_storeByte, if_pos h.rxn_toNat.symm]

theorem AtStart.count_first {s : State} (h : AtStart s) (b : Byte) : (storeByte b s).rxn.toNat = 1 := by
  rw [storeByte_rxn, h.rxn]
  rfl

/-- A full buffer accepts no byte (R127). -/
theorem not_rxReady_of_full {s : State} (h : s.rxn.toNat = 261) : rxReady s = false := by simp [rxReady, h]

/-- After an unknown start byte all bytes that fit are accumulated, and the length stays unknown (R83). -/
theorem feed_unknownStart {b : Byte} {bytes : List Byte} {s : State} (h : AtStart s) (hE5 : b ≠ 0xE5#8)
    (h68 : b ≠ 0x68#8) (hlen : (b :: bytes).length ≤ 261) :
    feed (b :: bytes) s = { stored (b :: bytes) s with rxs := .awaitLen } := by
  have hcount := h.count_first b
  have hrest : Accumulates bytes.length { storeByte b s with rxs := .awaitLen } := by
    refine ⟨h.seq, ?_, .inl ⟨rfl, ?_, ?_⟩⟩
    · show (storeByte b s).rxn.toNat + _ ≤ 261
      rw [hcount, Nat.add_comm]
      exact hlen
    · show 0 < (storeByte b s).rxn.toNat
      rw [hcount]
      exact Nat.one_pos
    · show (storeByte b s).byteAt .rxbuf 0 ≠ _
      rw [h.byteAt_first]
      exact h68
  rw [feed_cons_ready b bytes h.ready, takeByte_start h.rxs hE5, feed_accumulates bytes hrest,
    ← stored_cons (by rw [h.rxn_toNat]; decide)]
  rfl

/-- A wire row that arrives at a just armed receiver feeds it with its bytes. -/
theorem exec_wire_armed {i : Instr} {bytes : List Byte} {s : State} (h : JustArmed s)
    (henc : encode i = some (.wire bytes)) : exec i s = .next (feed bytes s) := by
  have hoffers : offersFrame bytes s = false := by simp [offersFrame, h.seq]
  rw [exec_wire henc, transferFrame_arrives hoffers, arrive, h.held]
  exact congrArg (fun u => Host.Outcome.next (feed bytes u)) (withHeld_self h.held)

/-! ### Unknown starts and the single character (O23, O29, O30) -/

/-- Settles O23: 261 bytes are accumulated and block the receiver for the rest. -/
theorem unknownStartNeverCompletes : Obligations.UnknownStartNeverCompletes := by
  intro b bs s harmed hE5 h68
  have hstart := atStart harmed
  have htaken : ((b :: bs).take 261).length = min 261 (b :: bs).length := List.length_take
  have hlen : ((b :: bs).take 261).length ≤ 261 := by omega
  have hfed : feed ((b :: bs).take 261) s = { stored ((b :: bs).take 261) s with rxs := .awaitLen } :=
    feed_unknownStart hstart hE5 h68 hlen
  have hcount : (stored ((b :: bs).take 261) s).rxn.toNat = min 261 (b :: bs).length := by
    rw [stored_rxn_toNat (by rw [hstart.rxn_toNat]; omega), hstart.rxn_toNat, Nat.zero_add, htaken]
  have hrest : feed (b :: bs) s =
      holdBytes ((b :: bs).drop 261) { stored ((b :: bs).take 261) s with rxs := .awaitLen } := by
    rw [← List.take_append_drop 261 (b :: bs), feed_append, hfed, List.take_append_drop]
    by_cases hfits : (b :: bs).length ≤ 261
    · rw [List.drop_eq_nil_of_le hfits, feed, holdBytes, List.append_nil]
    · have hfull : (stored ((b :: bs).take 261) s).rxn.toNat = 261 := by omega
      exact feed_blocked _ (not_rxReady_of_full hfull)
  refine ⟨_, runEvents_rxbytes harmed.held (b :: bs), ?_⟩
  rw [hrest]
  refine ⟨harmed.seq, rfl, rfl, hcount, fun k hk => ?_, ?_⟩
  · have hk' : k < min 261 (b :: bs).length := hcount ▸ hk
    show (stored ((b :: bs).take 261) s).rxbuf.read? k = _
    rw [read?_stored_zero hstart.rxn, if_pos (htaken ▸ hk'), List.getElem?_take_of_lt (by omega)]
  · rw [holdBytes_rxHeld]
    show s.rxHeld ++ _ = _
    rw [harmed.held, List.nil_append]

/-- The outcome of the single character (R157). -/
theorem outcomeOf_single (op : BusOp) :
    outcomeOf op .single = (if op = .poll then .unexpectedMessageType else .ok, decide (op ≠ .poll)) := by
  cases op <;> rfl

/-- Settles O29: the first byte `E5` completes the frame, and its class is known from its length. -/
theorem singleCharacterAcknowledges : Obligations.SingleCharacterAcknowledges := by
  intro op s harmed hop
  have hcompletes : completesFrame 0xE5#8 s := .inl ⟨harmed.rxs, harmed.rxn, rfl⟩
  have hone : s.rxn + 1#9 = 1#9 := by
    rw [harmed.rxn]
    rfl
  have hres : (completed 0xE5#8 s).res = { s.res with cls := .single } := by
    rw [completed, classify_single hone]
    rfl
  have hexec : exec .singleCharacter s = .next (takeByte 0xE5#8 s) := by
    rw [exec_wire_armed harmed (i := .singleCharacter) rfl, encSingle, feed_cons_ready _ _ (atStart harmed).ready]
    rfl
  refine ⟨_, hexec, ?_, fun a => ?_, fun i => ?_, ?_⟩ <;> rw [takeByte_ends hcompletes hop]
  · show completeResults op s.addr (completed 0xE5#8 s).res = _
    rw [completeResults_eq, hres, outcomeOf_single]
    simp
  · show fcbBit (completeFcb op (completed 0xE5#8 s)) a = _
    rw [fcbBit_completeFcb, completed_addr, hres, fcbBit_congr a (completed_fcb _ s)]
    simp
  · rw [completeFcb_frame, completed_frame]
    show (storeByte 0xE5#8 s).rxbuf.read? i = _
    rw [read?_storeByte, (atStart harmed).rxn_toNat]
  · rw [completeFcb_frame, completed_frame, hone]
    simp only [ended, storeByte, hone]

/-- Settles O30: `10` is no start of a response. -/
theorem shortFramesAreOnlyAccumulated : Obligations.ShortFramesAreOnlyAccumulated := by
  intro i cf af cs s harmed henc
  have hstart := atStart harmed
  refine ⟨_, exec_wire_armed harmed henc, ?_⟩
  rw [feed_unknownStart hstart (by decide) (by decide) (by simp)]
  refine ⟨fun k => read?_stored_zero hstart.rxn _ k, ?_⟩
  have hcount : BitVec.ofNat 9 (s.rxn.toNat + 5) = 5#9 := by rw [hstart.rxn_toNat]
  exact congrArg (fun n => { stored [0x10#8, cf, af, cs, 0x16#8] s with rxs := .awaitLen, rxn := n }) hcount

/-! ### A long frame -/

theorem writeBlock_append (as bs : List Byte) (m : Memory) (i : Nat) :
    m.writeBlock i (as ++ bs) = (m.writeBlock i as).writeBlock (i + as.length) bs := by
  induction as generalizing m i with
  | nil => rfl
  | cons a as ih =>
    rw [List.cons_append, Memory.writeBlock, ih, List.length_cons, Nat.add_assoc, Nat.add_comm 1]
    rfl

/-- The state `s` with a block of bytes accumulated and the receiver's length and state as given. -/
def receiving (bytes : List Byte) (n : BitVec 9) (x : RxState) (s : State) : State :=
  { s with
    rxbuf := s.rxbuf.writeBlock s.rxn.toNat bytes
    rxn := BitVec.ofNat 9 (s.rxn.toNat + bytes.length)
    rxexp := n
    rxs := x }

section

variable {s : State} {bytes : List Byte} {n : BitVec 9} {x : RxState}

theorem receiving_count (h : s.rxn.toNat + bytes.length < 512) :
    (receiving bytes n x s).rxn.toNat = s.rxn.toNat + bytes.length := Nat.mod_eq_of_lt h

theorem stored_receiving (h : s.rxn.toNat + bytes.length < 512) (more : List Byte) :
    stored more (receiving bytes n x s) = receiving (bytes ++ more) n x s := by
  have hcount := receiving_count (n := n) (x := x) h
  simp only [stored, receiving] at hcount ⊢
  rw [hcount, writeBlock_append, List.length_append, Nat.add_assoc]

theorem storeByte_receiving (h : s.rxn.toNat + bytes.length < 511) (b : Byte) :
    storeByte b (receiving bytes n x s) = receiving (bytes ++ [b]) n x s := by
  have hcount := receiving_count (n := n) (x := x) (Nat.lt_succ_of_lt h)
  rw [← stored_receiving (Nat.lt_succ_of_lt h), ← stored_cons (by omega), stored_nil]

/-- A byte just stored is a block of one. -/
theorem storeByte_eq_receiving (b : Byte) (y : RxState) :
    { storeByte b s with rxs := y } = receiving [b] s.rxexp y s := by
  have hcount : s.rxn + 1#9 = BitVec.ofNat 9 (s.rxn.toNat + 1) := by simp [BitVec.ofNat_add]
  rw [storeByte, hcount]
  rfl

end

/-- The bytes of a long frame between its length byte and its stop byte. -/
def longMiddle (cf af ci : Byte) (p : List Byte) (cs : Byte) : List Byte :=
  [lengthByte p, 0x68#8, cf, af, ci] ++ p ++ [cs]

theorem longMiddle_length (cf af ci : Byte) (p : List Byte) (cs : Byte) :
    (longMiddle cf af ci p cs).length = 6 + p.length := by
  simp only [longMiddle, List.length_append, List.length_cons, List.length_nil]
  omega

theorem longBytes_eq (cf af ci : Byte) (p : List Byte) (cs : Byte) :
    longBytes cf af ci p cs = [0x68#8, lengthByte p] ++ longMiddle cf af ci p cs ++ [0x16#8] := by
  simp [longBytes, longMiddle]

/-- The length `L + 6` that the length byte tells (R122). -/
def toldLength (p : List Byte) : BitVec 9 := (lengthByte p).zeroExtend 9 + 6#9

theorem toldLength_toNat {p : List Byte} (hp : p.length ≤ 252) : (toldLength p).toNat = 9 + p.length := by
  rw [toldLength, Soundness.lengthOf_toNat, Encodings.lengthByte_toNat hp]
  omega

/-- The receiver with all bytes of a long frame but its last. -/
def beforeStop (cf af ci : Byte) (p : List Byte) (cs : Byte) (s : State) : State :=
  receiving ([0x68#8, lengthByte p] ++ longMiddle cf af ci p cs) (toldLength p) .lenKnown s

/-- The receiver with a whole frame. -/
def received (bytes : List Byte) (s : State) : State :=
  receiving bytes (BitVec.ofNat 9 (s.rxn.toNat + bytes.length)) .complete s

section

variable {s : State} {p : List Byte}

theorem takeByte_longStart (h : AtStart s) : takeByte 0x68#8 s = receiving [0x68#8] s.rxexp .awaitLen s := by
  rw [takeByte_start h.rxs (by decide), storeByte_eq_receiving]

theorem takeByte_longLength (h : AtStart s) (hp : p.length ≤ 252) :
    takeByte (lengthByte p) (receiving [0x68#8] s.rxexp .awaitLen s) =
      receiving [0x68#8, lengthByte p] (toldLength p) .lenKnown s := by
  have hzero := h.rxn_toNat
  have hcount : (receiving [0x68#8] s.rxexp .awaitLen s).rxn.toNat = 1 := by
    rw [receiving_count (by rw [hzero]; decide), hzero]
    rfl
  have hfirst : (receiving [0x68#8] s.rxexp .awaitLen s).rxbuf.read? 0 = some 0x68#8 := by
    show (stored [0x68#8] s).rxbuf.read? 0 = _
    rw [read?_stored_zero h.rxn]
    rfl
  have hmore : (lengthByte p).zeroExtend 9 + 6#9 ≠ (receiving [0x68#8] s.rxexp .awaitLen s).rxn + 1#9 := fun e => by
    have htold := toldLength_toNat hp
    rw [toldLength, e, rxn_succ_toNat (by omega)] at htold
    omega
  rw [takeByte_length rfl (by omega) (byteAt_of_read? hfirst) hmore,
    storeByte_receiving (by rw [hzero]; decide)]
  rfl

theorem lengthSeen_count (h : AtStart s) :
    (receiving [0x68#8, lengthByte p] (toldLength p) .lenKnown s).rxn.toNat = 2 := by
  rw [receiving_count (by rw [h.rxn_toNat]; simp), h.rxn_toNat]
  rfl

/-- Between the length byte and the stop byte nothing completes. -/
theorem accumulates_longMiddle (h : AtStart s) (hp : p.length ≤ 252) (cf af ci cs : Byte) :
    Accumulates (longMiddle cf af ci p cs).length
      (receiving [0x68#8, lengthByte p] (toldLength p) .lenKnown s) := by
  have hcount := lengthSeen_count (p := p) h
  have htold := toldLength_toNat hp
  have hmiddle := longMiddle_length cf af ci p cs
  exact ⟨h.seq, by omega, .inr ⟨rfl, show _ < (toldLength p).toNat by omega⟩⟩

theorem beforeStop_count (h : AtStart s) (hp : p.length ≤ 252) (cf af ci cs : Byte) :
    (beforeStop cf af ci p cs s).rxn.toNat = 8 + p.length := by
  have hlen : ([0x68#8, lengthByte p] ++ longMiddle cf af ci p cs).length = 8 + p.length := by
    rw [List.length_append, longMiddle_length]
    show 2 + _ = _
    omega
  rw [beforeStop, receiving_count (by rw [h.rxn_toNat, hlen]; omega), h.rxn_toNat, hlen, Nat.zero_add]

/-- The stop byte completes the frame. -/
theorem completesFrame_stop (h : AtStart s) (hp : p.length ≤ 252) (cf af ci cs : Byte) :
    completesFrame 0x16#8 (beforeStop cf af ci p cs s) := by
  have hcount := beforeStop_count h hp cf af ci cs
  have htold : (beforeStop cf af ci p cs s).rxexp.toNat = 9 + p.length := toldLength_toNat hp
  refine .inr ⟨rfl, BitVec.eq_of_toNat_eq ?_⟩
  rw [rxn_succ_toNat (by omega), hcount, htold]
  omega

/-- A long frame is accumulated to its last byte, and that byte is the one that is finished (R120, R122). -/
theorem feed_longBytes (h : AtStart s) (hp : p.length ≤ 252) (cf af ci cs : Byte) :
    feed (longBytes cf af ci p cs) s = takeByte 0x16#8 (beforeStop cf af ci p cs s) := by
  have hzero := h.rxn_toNat
  have hstart : rxReady (receiving [0x68#8] s.rxexp .awaitLen s) = true :=
    (rxReady_iff _).mpr ⟨h.seq, rfl, by rw [receiving_count (by rw [hzero]; decide), hzero]; decide⟩
  have hstop : rxReady (beforeStop cf af ci p cs s) = true :=
    (rxReady_iff _).mpr ⟨h.seq, rfl, by rw [beforeStop_count h hp]; omega⟩
  rw [longBytes_eq, feed_append, feed_append, feed_cons_ready _ _ h.ready, takeByte_longStart h,
    feed_cons_ready _ _ hstart, takeByte_longLength h hp, feed,
    feed_accumulates _ (accumulates_longMiddle h hp cf af ci cs), stored_receiving (by rw [hzero]; simp)]
  exact feed_cons_ready 0x16#8 [] hstop

theorem completed_beforeStop (h : AtStart s) (hp : p.length ≤ 252) (cf af ci cs : Byte) :
    completed 0x16#8 (beforeStop cf af ci p cs s) = classify (received (longBytes cf af ci p cs) s) := by
  have hcount := beforeStop_count h hp cf af ci cs
  have hall : storeByte 0x16#8 (beforeStop cf af ci p cs s) =
      receiving (longBytes cf af ci p cs) (toldLength p) .lenKnown s := by
    have hlen := longMiddle_length cf af ci p cs
    rw [beforeStop, storeByte_receiving (by simp [h.rxn_toNat, hlen]; omega), longBytes_eq]
  have hlast : (beforeStop cf af ci p cs s).rxn + 1#9 =
      BitVec.ofNat 9 (s.rxn.toNat + (longBytes cf af ci p cs).length) := by
    rw [← storeByte_rxn 0x16#8, hall]
    rfl
  rw [completed, hall, hlast]
  rfl

/-- A long frame that arrives at the start of a receive ends a bus operation by the outcome table (R145). -/
theorem feed_longBytes_ends (h : AtStart s) (hp : p.length ≤ 252) (cf af ci cs : Byte) {op : BusOp}
    (hop : busOpOf s.op = some op) :
    feed (longBytes cf af ci p cs) s =
      ended (completeResults op s.addr (classify (received (longBytes cf af ci p cs) s)).res)
        (completeFcb op (classify (received (longBytes cf af ci p cs) s))) := by
  have hop' : busOpOf (beforeStop cf af ci p cs s).op = some op := hop
  rw [feed_longBytes h hp, takeByte_ends (completesFrame_stop h hp cf af ci cs) hop', completed_beforeStop h hp]
  rfl

end

/-! ### The class of a long frame (R130, R131) -/

/-- The bytes of a long frame from `CF` on. -/
theorem longBytes_getElem?_body (cf af ci : Byte) (p : List Byte) (cs : Byte) {k : Nat} (hk : k < 3 + p.length) :
    (longBytes cf af ci p cs)[4 + k]? = ([cf, af, ci] ++ p)[k]? := by
  have hsplit : longBytes cf af ci p cs =
      [0x68#8, lengthByte p, lengthByte p, 0x68#8] ++ (([cf, af, ci] ++ p) ++ [cs, 0x16#8]) := by simp [longBytes]
  rw [hsplit, List.getElem?_append_right (by simp), List.getElem?_append_left (by simp; omega)]
  exact congrArg _ (Nat.add_sub_cancel_left 4 k)

theorem longBytes_getElem?_tail (cf af ci : Byte) (p : List Byte) (cs : Byte) (k : Nat) :
    (longBytes cf af ci p cs)[7 + p.length + k]? = [cs, 0x16#8][k]? := by
  have hlen : ([0x68#8, lengthByte p, lengthByte p, 0x68#8, cf, af, ci] ++ p).length = 7 + p.length := by
    rw [List.length_append, Nat.add_comm]
    exact Nat.add_comm _ _
  rw [longBytes, List.getElem?_append_right (by omega), hlen, Nat.add_sub_cancel_left]

/-- A long frame of 0 to 252 payload bytes stands in `RXBUF`, all of it counted. -/
structure LongFrameIn (cf af ci : Byte) (p : List Byte) (cs : Byte) (s : State) : Prop where
  short : p.length ≤ 252
  rxn : s.rxn.toNat = 9 + p.length
  stands : ∀ k, k < 9 + p.length → s.rxbuf.read? k = (longBytes cf af ci p cs)[k]?

section

variable {cf af ci : Byte} {p : List Byte} {cs : Byte} {s : State}

/-- A byte of the frame is what `RXBUF` reads. -/
theorem LongFrameIn.byteAt (h : LongFrameIn cf af ci p cs s) {k : Nat} {v : Byte}
    (hv : (longBytes cf af ci p cs)[k]? = some v) : s.byteAt .rxbuf k = v := by
  have hk : k < 9 + p.length := by
    have hlt := (List.getElem?_eq_some_iff.mp hv).1
    rwa [longBytes_length] at hlt
  exact byteAt_of_read? ((h.stands k hk).trans hv)

theorem LongFrameIn.length (h : LongFrameIn cf af ci p cs s) : (s.byteAt .rxbuf 1).toNat = 3 + p.length := by
  rw [h.byteAt (k := 1) rfl, Encodings.lengthByte_toNat h.short]

/-- `CF`, `AF`, `CI` and the payload, as they stand in the buffer. -/
theorem LongFrameIn.bytesAt_body (h : LongFrameIn cf af ci p cs s) :
    s.bytesAt .rxbuf 4 (3 + p.length) = [cf, af, ci] ++ p := by
  refine List.ext_getElem? fun k => ?_
  by_cases hk : k < 3 + p.length
  · obtain ⟨v, hv⟩ : ∃ v, ([cf, af, ci] ++ p)[k]? = some v :=
      ⟨_, List.getElem?_eq_getElem (by simp only [List.length_append, List.length_cons, List.length_nil]; omega)⟩
    rw [Ports.bytesAt_getElem? s .rxbuf 4 hk, h.byteAt ((longBytes_getElem?_body cf af ci p cs hk).trans hv), hv]
  · rw [List.getElem?_eq_none (by rw [bytesAt_length]; omega),
      List.getElem?_eq_none (by simp only [List.length_append, List.length_cons, List.length_nil]; omega)]

/-- The payload alone (R132). -/
theorem LongFrameIn.bytesAt_payload (h : LongFrameIn cf af ci p cs s) : s.bytesAt .rxbuf 7 p.length = p := by
  refine List.ext_getElem? fun k => ?_
  by_cases hk : k < p.length
  · have hbody : (longBytes cf af ci p cs)[7 + k]? = p[k]? := by
      have hplace := longBytes_getElem?_body cf af ci p cs (k := 3 + k) (by omega)
      rw [List.getElem?_append_right (by simp)] at hplace
      rw [show 7 + k = 4 + (3 + k) by omega, hplace]
      simp
    rw [Ports.bytesAt_getElem? s .rxbuf 7 hk,
      h.byteAt (hbody.trans (List.getElem?_eq_getElem hk)), List.getElem?_eq_getElem hk]
  · rw [List.getElem?_eq_none (by rw [bytesAt_length]; omega), List.getElem?_eq_none (by omega)]

/-- The five checks of a frame whose shape is right: only its checksum can fail. -/
theorem LongFrameIn.checks (h : LongFrameIn cf af ci p cs s) :
    integLength s = true ∧ integRepeat s = true ∧ integStart s = true ∧ integStop s = true ∧
      integSum s = longSumOk cf af ci p cs := by
  have hlen := h.length
  have hstop : s.byteAt .rxbuf (3 + p.length + 5) = 0x16#8 := by
    rw [show 3 + p.length + 5 = 7 + p.length + 1 by omega]
    exact h.byteAt (longBytes_getElem?_tail cf af ci p cs 1)
  have hcs : s.byteAt .rxbuf (3 + p.length + 4) = cs := by
    rw [show 3 + p.length + 4 = 7 + p.length + 0 by omega]
    exact h.byteAt (longBytes_getElem?_tail cf af ci p cs 0)
  refine ⟨?_, ?_, ?_, ?_, ?_⟩
  · rw [integLength, hlen]
    exact decide_eq_true (by omega)
  · rw [integRepeat, h.byteAt (k := 1) rfl, h.byteAt (k := 2) rfl, beq_self_eq_true]
  · rw [integStart, h.byteAt (k := 3) rfl, beq_self_eq_true]
  · rw [integStop, hlen, hstop, beq_self_eq_true]
  · rw [integSum, hlen, hcs, h.bytesAt_body]
    rfl

/-- The result registers of a long frame that came whole (R130). -/
theorem LongFrameIn.classify_res (h : LongFrameIn cf af ci p cs s) :
    (classify s).res = { s.res with
      cf := cf, af := af, ci := ci, plen := BitVec.ofNat 8 p.length,
      integ := BitVec.ofBool (longSumOk cf af ci p cs) ++ 0b1111#4,
      cls := if s.cfg.rxIntegrityCheck = true ∧ longSumOk cf af ci p cs = false then .malformed else .rspUd } := by
  obtain ⟨hlength, hrepeat, hstart, hstop, hsum⟩ := h.checks
  have hmany : s.rxn ≠ 1#9 := fun e => by
    have hone := h.rxn
    rw [e] at hone
    have hsmall : (1#9).toNat = 1 := rfl
    omega
  have hplen : s.byteAt .rxbuf 1 - 3#8 = BitVec.ofNat 8 p.length := by
    rw [h.byteAt (k := 1) rfl, lengthByte, BitVec.ofNat_add]
    exact add_sub_cancel_left (3#8) _
  have hfields : s.byteAt .rxbuf 4 = cf ∧ s.byteAt .rxbuf 5 = af ∧ s.byteAt .rxbuf 6 = ci :=
    ⟨h.byteAt rfl, h.byteAt rfl, h.byteAt rfl⟩
  have hinteg : integrity s = BitVec.ofBool (longSumOk cf af ci p cs) ++ 0b1111#4 := by
    rw [integrity, hlength, hrepeat, hstart, hstop, hsum]
    cases longSumOk cf af ci p cs <;> rfl
  have haccepts : acceptsLong s = (!s.cfg.rxIntegrityCheck || longSumOk cf af ci p cs) := by
    rw [acceptsLong, hlength, hrepeat, hstart, hstop, hsum]
    rfl
  rw [classify_long hmany, latchFields, if_pos hlength, hplen, hfields.1, hfields.2.1, hfields.2.2, hinteg, haccepts]
  cases s.cfg.rxIntegrityCheck <;> cases longSumOk cf af ci p cs <;> rfl

end

/-! ### The obligations on long frames (O31 to O33) -/

/-- The frame just received stands in the buffer. -/
theorem longFrameIn_received {s : State} (h : AtStart s) {p : List Byte} (hp : p.length ≤ 252) (cf af ci cs : Byte) :
    LongFrameIn cf af ci p cs (received (longBytes cf af ci p cs) s) := by
  refine ⟨hp, ?_, fun k hk => ?_⟩
  · rw [received, receiving_count (by rw [h.rxn_toNat, longBytes_length]; omega), h.rxn_toNat, longBytes_length,
      Nat.zero_add]
  · show (stored (longBytes cf af ci p cs) s).rxbuf.read? k = _
    rw [read?_stored_zero h.rxn, if_pos (by rwa [longBytes_length])]

/-- The checksum test in the words of R131. -/
theorem longSumOk_eq (cf af ci : Byte) (p : List Byte) (cs : Byte) :
    longSumOk cf af ci p cs = decide (cs = BitVec.ofNat 8 ((cf.toNat + af.toNat + ci.toNat + byteSum p) % 256)) := by
  have hsum : byteSum ([cf, af, ci] ++ p) = cf.toNat + af.toNat + ci.toNat + byteSum p := by
    simp only [List.cons_append, List.nil_append, FrameCodec.byteSum_cons]
    omega
  rw [longSumOk, FrameCodec.sum8_eq_ofNat_byteSum, hsum]
  rfl

/-- A long frame never sets a latch. -/
theorem completeFcb_of_not_single {s : State} (h : s.res.cls ≠ .single) (op : BusOp) : completeFcb op s = s :=
  completeFcb_other fun e => h e.2

/-- Settles O31: the frame completes with its last byte, its shape passes four checks, and its sum decides the fifth. -/
theorem longFramesAreClassifiedByTheirChecksum : Obligations.LongFramesAreClassifiedByTheirChecksum := by
  intro i op cf af ci p cs s harmed hop hp henc sumOk cls
  have hstart := atStart harmed
  have hin := longFrameIn_received hstart hp cf af ci cs
  have hres := hin.classify_res
  have hsum : longSumOk cf af ci p cs = sumOk := longSumOk_eq cf af ci p cs
  rw [hsum] at hres
  have hcls : (classify (received (longBytes cf af ci p cs) s)).res.cls = cls := by rw [hres]; rfl
  have hnotSingle : cls ≠ .single := by
    show (if _ then _ else _) ≠ _
    split <;> simp
  refine ⟨_, exec_wire_armed harmed henc, ?_⟩
  rw [feed_longBytes_ends hstart hp cf af ci cs hop, completeFcb_of_not_single (by rw [hcls]; exact hnotSingle),
    completeResults_eq, hcls, hres, classify_frame]
  refine ⟨hin.rxn, rfl, fun k => ?_, ?_⟩
  · have hread := read?_stored_zero hstart.rxn (longBytes cf af ci p cs) k
    rw [longBytes_length] at hread
    exact hread
  · rfl

/-- The checksum byte of a long frame, as R72 writes it. -/
def specSum (cf af ci : Byte) (p : List Byte) : Byte :=
  BitVec.ofNat 8 ((cf.toNat + af.toNat + ci.toNat + byteSum p) % 256)

/-- Everything a correct long frame does to a poll that waits for its answer (R132, R154, R176). -/
theorem poll_answered {s : State} (harmed : JustArmed s) (hop : s.op = 0x1#4) {p : List Byte}
    (hp : p.length ≤ 252) (cf af ci : Byte) :
    ∃ t, exec (.longFrame cf af ci p (specSum cf af ci p)) s = .next t ∧ t.rxn.toNat = 9 + p.length ∧
      t.res = {
        code := .ok, flag := true, cls := .rspUd, cf := cf, af := af, ci := ci, plen := BitVec.ofNat 8 p.length,
        afmis := decide (af ≠ s.addr), integ := 0b11111#5 } ∧
      deliveredPayload t = p ∧
      t = { s with
        rxbuf := t.rxbuf, rxn := t.rxn, rxexp := t.rxn, rxs := .complete, res := t.res, seq := .idle,
        resValid := true } := by
  have hpoll : busOpOf s.op = some .poll := by rw [hop]; rfl
  obtain ⟨t, hexec, hrxn, hres, hread, hframe⟩ := longFramesAreClassifiedByTheirChecksum
    (.longFrame cf af ci p (specSum cf af ci p)) .poll cf af ci p (specSum cf af ci p) s harmed hpoll hp rfl
  have hsum : decide (specSum cf af ci p =
      BitVec.ofNat 8 ((cf.toNat + af.toNat + ci.toNat + byteSum p) % 256)) = true := decide_eq_true rfl
  have hres' : t.res = {
      code := .ok, flag := true, cls := .rspUd, cf := cf, af := af, ci := ci, plen := BitVec.ofNat 8 p.length,
      afmis := decide (af ≠ s.addr), integ := 0b11111#5 } := by
    rw [hres, hsum]
    simp [outcomeOf]
  have hin : LongFrameIn cf af ci p (specSum cf af ci p) t :=
    ⟨hp, hrxn, fun k hk => by rw [hread, if_pos hk]⟩
  have hplen : t.res.plen.toNat = p.length := by
    rw [hres']
    exact Nat.mod_eq_of_lt (show p.length < 256 by omega)
  refine ⟨t, hexec, hrxn, hres', ?_, hframe⟩
  rw [deliveredPayload, hplen]
  exact hin.bytesAt_payload

/-- Settles O32, as the case of a correct checksum. -/
theorem longFrameAnswersAPoll : Obligations.LongFrameAnswersAPoll := by
  intro cf af ci p s harmed hop _ hp
  obtain ⟨t, hexec, hrxn, hres, hpayload, hframe⟩ := poll_answered harmed hop hp cf af ci
  exact ⟨t, hexec, congrArg State.seq hframe, congrArg State.resValid hframe, congrArg State.rxs hframe, hrxn, hres,
    hpayload⟩

/-- A request just built is what the engine offers. -/
theorem offersFrame_of_frameBuilt {op : BitVec 4} {a : Byte} {sc : SecAddr} {n : BitVec 16} {frame : List Byte}
    {s t : State} (h : FrameBuilt op a sc n frame s t) (hne : frame ≠ []) (hlen : frame.length ≤ 261) :
    offersFrame frame t = true := by
  obtain ⟨hframe, hread⟩ := h
  have htxLen : t.txLen = BitVec.ofNat 9 frame.length := congrArg State.txLen hframe
  refine (offersFrame_iff frame t).mpr ⟨congrArg State.seq hframe, congrArg State.txI hframe, ?_, hne, hlen, ?_⟩
  · rw [htxLen]
    exact Nat.mod_eq_of_lt (by omega)
  · refine (holds_iff frame t.txbuf 0).mpr fun k hk => ?_
    rw [Nat.zero_add, hread, if_pos hk]

/-- Settles O33: the command builds the request, its acknowledgements put it on the line and arm the receiver, and the
bytes of the response are a long frame that answers the poll. -/
theorem answeredPollDeliversItsPayload : Obligations.AnsweredPollDeliversItsPayload := by
  intro a sc n tm cf af ci p s hidle hlink hheld hport hp
  obtain ⟨t, hexec, hbuilt, hlatch⟩ := Requests.pollBuildsItsRequest a sc n tm s hidle hlink
  have hcmd : onEvent (.cmd (commandWord 0x1#4 a sc n tm)) s = .next t := by
    show takeHeldCommand (holdCommand _ s) = _
    rw [Transitions.takeHeldCommand_new hport, Encodings.decodeCommand_commandWord]
    exact hexec
  have hoffers := offersFrame_of_frameBuilt hbuilt (by simp [specShortFrame]) (by simp [specShortFrame])
  have hacks := runEvents_txacks_offered hoffers
  obtain ⟨hframe, _⟩ := hbuilt
  generalize hrequest : specShortFrame (if fcbBit s a then 0x7B#8 else 0x5B#8) a = request at *
  have hfive : request.length = 5 := by rw [← hrequest]; rfl
  have hheld' : t.rxHeld = [] := (congrArg State.rxHeld hframe).trans hheld
  have harmed : JustArmed (sendWhole request t) := ⟨rfl, rfl, rfl, hheld'⟩
  obtain ⟨u, hanswer, _, hres, hpayload, hend⟩ :=
    poll_answered harmed (congrArg State.op hframe) hp cf af ci
  have hresponse : runEvents ((specLongFrame cf af ci p).map Event.rxbyte) (sendWhole request t) = .next u := by
    rw [runEvents_rxbytes harmed.held, ← hanswer, exec_wire_armed harmed rfl]
    rfl
  refine ⟨u, ?_, congrArg State.seq hend, by rw [hres], by rw [hres], ?_, ?_, fun b => ?_, by rw [hres], by rw [hres],
    hpayload⟩
  · rw [List.append_assoc, List.singleton_append, runEvents_cons hcmd, ← hfive, runEvents_append hacks, hresponse]
  · rw [hres, sendWhole_addr, congrArg State.addr hframe]
  · have hrequestTx : t.tx = s.tx := by rw [hframe]
    have hanswerTx : u.tx = t.tx ++ request := by rw [hend]; rfl
    rw [hanswerTx, hrequestTx]
  · have hfcb : u.fcb = t.fcb := by rw [hend]; rfl
    rw [← hlatch b, fcbBit_congr b hfcb]

end Arrivals

end Sys2Proof.Machine

/-! PROOFS. Sessions, payload writes and reset (spec/44_session_control.md R173, spec/20_memory.md R51,
spec/70_reset_and_hazards.md R200), and the order of events in a clock cycle (spec/10_state.md R22): O43, O46 to O50. -/

namespace Sys2Proof.Machine

namespace Cycles

open Sys2Proof.Machine.Laws Sys2Proof.Machine.Receiver Sys2Proof.Machine.Line

/-! ### Payload writes, sessions and reset -/

/-- Settles O43, on each side of the last index. -/
theorem payloadWriteIsOneByte : Obligations.PayloadWriteIsOneByte := by
  intro i v s
  simp only [Ports.runEvents_singleton]
  refine ⟨fun hin => ⟨{ s with payload := s.payload.write i.toNat v }, ?_, fun k => read?_write _ _ _ _, rfl⟩,
    fun hout => ?_⟩
  · exact congrArg Host.Outcome.next (if_pos (Nat.lt_succ_of_le hin))
  · exact congrArg Host.Outcome.next (if_neg (Nat.not_lt_of_le hout))

theorem onLink_same (s : State) : onLink s.link s = .next s := congrArg Host.Outcome.next (if_pos rfl)

theorem onLink_opens {s : State} (h : s.link = false) : onLink true s = .next (fcbSetAll { s with link := true }) := by
  rw [onLink, if_neg (by simp [h]), if_pos rfl]

theorem onLink_closes {s : State} (h : s.link = true) : onLink false s = .next (linkLost { s with link := false }) := by
  rw [onLink, if_neg (by simp [h]), if_neg Bool.false_ne_true]

theorem linkLost_of_idle {s : State} (h : s.seq = .idle) : linkLost s = s := by rw [linkLost, h]

theorem linkLost_of_recv {s : State} (h : s.seq = .recv) : linkLost s = raise .ioError s := by rw [linkLost, h]

/-- The closing of the link leaves no command in progress (R156). -/
theorem linkLost_seq (s : State) : (linkLost s).seq = .idle := by
  rcases linkLost_cases s with ⟨hseq, h⟩ | ⟨_, h⟩ | ⟨_, h⟩ <;> rw [h]
  · exact hseq
  · rw [HalfDuplex.sendFailure_eq_ended]
    rfl
  · rfl

/-- Settles O46, by the level and the state of the sequencer. -/
theorem linkEventsStartAndEndSessions : Obligations.LinkEventsStartAndEndSessions := by
  intro s
  simp only [Ports.runEvents_singleton]
  refine ⟨fun hlink => ⟨_, onLink_opens hlink, fun a => fcbBit_fcbSetAll a _, rfl⟩, fun hlink hidle => ?_,
    fun hlink hrecv => ?_, onLink_same s⟩
  · exact (onLink_closes hlink).trans (congrArg Host.Outcome.next (linkLost_of_idle hidle))
  · exact (onLink_closes hlink).trans (congrArg Host.Outcome.next (linkLost_of_recv hrecv))

/-- Settles O47, register by register. -/
theorem resetGivesTheResetValues : Obligations.ResetGivesTheResetValues := by
  intro l s
  refine ⟨hardReset l s, rfl, fun a => fcbBit_fcbSetAll a s, rfl, rfl, rfl, rfl, rfl, rfl, rfl, rfl, rfl, rfl, rfl, rfl,
    rfl, rfl, rfl, rfl, rfl, fun buf i => ?_, rfl, rfl, rfl, rfl⟩
  cases buf <;> rfl

/-! ### The events of a clock cycle (R22) -/

/-- The events of a cycle between `tx_err` and the payload write. -/
def unitEvents (s : State) (p : CycleInputs) : List Event :=
  (if p.txReady && txValid s then [.txack] else []) ++ (if rxReady s then [.offerByte] else []) ++
    (if p.tick then [.tick] else [])

/-- The payload write of a cycle, if there is one. -/
def writeEvents (p : CycleInputs) : List Event := p.pay.toList.map (fun w => .paywr w.1 w.2)

theorem cycleEvents_of_no_reset {p : CycleInputs} (h : p.rst = false) (s : State) :
    cycleEvents s p =
      (if p.linkOpen = s.link then [] else [.link p.linkOpen]) ++
        ((if p.txErr && txValid s then [.txerr] else []) ++
          (unitEvents s p ++ (writeEvents p ++ if cmdReady s then [.offerCommand] else []))) := by
  rcases hpay : p.pay with _ | ⟨i, v⟩ <;> simp [cycleEvents, unitEvents, writeEvents, h, hpay]

/-- The events that a sequencer without a command in progress drops (R22). -/
def NeedsCommand (e : Event) : Prop := e = .txerr ∨ e = .txack ∨ e = .offerByte ∨ e = .tick

theorem onEvent_of_idle {s : State} (h : s.seq = .idle) {e : Event} (he : NeedsCommand e) : onEvent e s = .next s := by
  rcases he with rfl | rfl | rfl | rfl
  · exact HalfDuplex.onSendError_of_not_send (by simp [h])
  · exact if_neg (by simp [h])
  · have hblocked : rxReady s = false := not_rxReady_of_idle h
    exact if_neg (by simp [hblocked])
  · exact congrArg Host.Outcome.next (takeTick_of_idle h)

/-- A run of such events leaves an idle engine as it is. -/
theorem runEvents_of_idle {s : State} (h : s.seq = .idle) {es : List Event} (he : ∀ e ∈ es, NeedsCommand e)
    (rest : List Event) : runEvents (es ++ rest) s = runEvents rest s := by
  induction es with
  | nil => rfl
  | cons e es ih =>
    rw [List.forall_mem_cons] at he
    rw [List.cons_append, runEvents_cons (onEvent_of_idle h he.1), ih he.2]

/-- An event that comes under a condition is among its list. -/
theorem needsCommand_of_mem_ite {c : Bool} {e f : Event} (hf : NeedsCommand f)
    (h : e ∈ (if c = true then [f] else [])) : NeedsCommand e := by
  cases c with
  | true => rw [List.mem_singleton.mp h]; exact hf
  | false => cases h

theorem needsCommand_unitEvents (s : State) (p : CycleInputs) : ∀ e ∈ unitEvents s p, NeedsCommand e := by
  intro e he
  rcases List.mem_append.mp he with he | he
  · rcases List.mem_append.mp he with he | he
    · exact needsCommand_of_mem_ite (.inr (.inl rfl)) he
    · exact needsCommand_of_mem_ite (.inr (.inr (.inl rfl))) he
  · exact needsCommand_of_mem_ite (.inr (.inr (.inr rfl))) he

theorem needsCommand_txerr (s : State) (p : CycleInputs) :
    ∀ e ∈ (if p.txErr && txValid s then [Event.txerr] else []), NeedsCommand e :=
  fun _ he => needsCommand_of_mem_ite (.inl rfl) he

theorem cmdReady_of_busy {s : State} (h : s.seq ≠ .idle) : cmdReady s = false := by simp [cmdReady, h]

theorem txValid_of_idle {s : State} (h : s.seq = .idle) : txValid s = false := by simp [txValid, h]

/-! ### A byte and a tick in one cycle (O48, O49) -/

/-- The engine at the turn of the first byte of a cycle: the others, and a new command word, are held. -/
def byteTurn (rest : List Byte) (p : CycleInputs) (s : State) : State :=
  { s with rxHeld := rest, cmdPort := s.cmdPort ++ p.cmd.toList }

/-- While receiving, with a tick and no other event of the host, a cycle is the offering of a byte and then the tick. -/
theorem runCycle_byteAndTick {b : Byte} {rest : List Byte} {p : CycleInputs} {s : State} (hready : rxReady s = true)
    (hrst : p.rst = false) (hlink : p.linkOpen = s.link) (htick : p.tick = true) (hpay : p.pay = none)
    (hheld : s.rxHeld ++ p.rx.toList = b :: rest) :
    runCycle p s =
      .next (takeTick (takeByte b (byteTurn rest p s))) := by
  obtain ⟨hrecv, _⟩ := (rxReady_iff s).mp hready
  have hevents : cycleEvents s p = [.offerByte, .tick] := by
    simp [cycleEvents_of_no_reset hrst, unitEvents, writeEvents, hlink, htick, hpay, hready, txValid, cmdReady, hrecv]
  have hbyte : onEvent .offerByte (cycleArrivals p s) =
      .next (takeByte b (byteTurn rest p s)) :=
    (Transitions.takeHeldByte_ready (s := cycleArrivals p s) hready hheld).trans
      (exec_rxByte_ready (s := byteTurn rest p s) hready b)
  rw [runCycle, hevents, runEvents_cons hbyte, Ports.runEvents_singleton]
  rfl

/-- Settles O48: the byte ends the operation, so the tick finds nothing waiting. -/
theorem completingByteWinsOverTheTick : Obligations.CompletingByteWinsOverTheTick := by
  intro b rest p s hready hbus hcompletes hrst hlink htick hpay hheld
  obtain ⟨op, hop⟩ := Option.isSome_iff_exists.mp hbus
  have hidle : (takeByte b (byteTurn rest p s)).seq = .idle := by
    rw [takeByte_ends (s := byteTurn rest p s) hcompletes hop]
    rfl
  rw [runCycle_byteAndTick hready hrst hlink htick hpay hheld, takeTick_of_idle hidle]
  exact (exec_rxByte_ready (s := byteTurn rest p s) hready b).symm

/-- At the timeout with some bytes accumulated the message is incomplete (R126, R145). -/
theorem expired_of_bytes {s : State} (h : s.rxn ≠ 0#9) :
    expired s = { s with
      elapsed := s.elapsed + s.cfg.pollMs, rxs := .incomplete, seq := .idle, resValid := true,
      res := { s.res with code := .incompleteMessage, flag := false } } := by
  rw [expired, expiryCode, if_neg h, if_neg h]
  rfl

/-- Settles O49: the byte is stored and the receive goes on, so the tick counts on the result. -/
theorem byteIsCountedBeforeTheTickOfItsCycle : Obligations.ByteIsCountedBeforeTheTickOfItsCycle := by
  intro b rest p s hinv hready hno hrst hlink htick hpay hheld
  obtain ⟨hrecv, hwaits, hroom⟩ := (rxReady_iff s).mp hready
  have hinv' : EngineInv (byteTurn rest p s) := Soundness.engineInv_congr hinv {} id
  obtain ⟨x, n, hx, ht⟩ := Soundness.takeByte_continues hinv' hwaits hno
  refine ⟨_, exec_rxByte_ready (s := byteTurn rest p s) hready b, ?_⟩
  rw [runCycle_byteAndTick hready hrst hlink htick hpay hheld]
  generalize takeByte b (byteTurn rest p s) = t at ht
  have hseq : t.seq = .recv := by rw [ht]; exact hrecv
  have hrxn : t.rxn = s.rxn + 1#9 := by rw [ht]; rfl
  have helapsed : t.elapsed + t.cfg.pollMs = s.elapsed + s.cfg.pollMs := by rw [ht]; rfl
  have htimeout : t.timeout = s.timeout := by rw [ht]; rfl
  have htwaits : receiverWaits t = true := (receiverWaits_iff t).mpr ⟨hseq, by rw [ht]; exact hx⟩
  have hsome : t.rxn ≠ 0#9 := by
    have hcount := rxn_succ_toNat (s := s) (by omega)
    rw [hrxn]
    intro e
    rw [e] at hcount
    exact absurd hcount (by simp)
  rw [← helapsed, ← htimeout]
  exact ⟨hseq, hrxn, fun hlt => congrArg Host.Outcome.next (takeTick_counts htwaits hlt),
    fun hle => congrArg Host.Outcome.next ((takeTick_expires htwaits hle).trans (expired_of_bytes hsome))⟩

/-! ### The order of events (O50) -/

/-- A link that falls while a command is in progress ends it, and of the rest of the cycle only the payload write has
an effect. -/
theorem runCycle_linkFalls {p : CycleInputs} {s : State} (hrst : p.rst = false) (hopen : p.linkOpen = false)
    (hlink : s.link = true) (hbusy : s.seq ≠ .idle) :
    runCycle p s = runEvents (.link false :: writeEvents p) (cycleArrivals p s) := by
  have hclose := onLink_closes (s := cycleArrivals p s) hlink
  have hidle := linkLost_seq { cycleArrivals p s with link := false }
  rw [runCycle, cycleEvents_of_no_reset hrst, hopen, if_neg (by simp [hlink]), cmdReady_of_busy hbusy,
    if_neg Bool.false_ne_true, List.append_nil, List.singleton_append, runEvents_cons (e := .link false) hclose,
    runEvents_cons (e := .link false) hclose, runEvents_of_idle hidle (needsCommand_txerr s p),
    runEvents_of_idle hidle (needsCommand_unitEvents s p)]

/-- A send error ends the command, and of the rest of the cycle only the payload write has an effect. -/
theorem runCycle_sendFails {p : CycleInputs} {s : State} (hrst : p.rst = false) (hlink : p.linkOpen = s.link)
    (herr : p.txErr = true) (hsend : s.seq = .send) :
    runCycle p s = runEvents (.txerr :: writeEvents p) (cycleArrivals p s) := by
  have hfails := HalfDuplex.onSendError_of_send (s := cycleArrivals p s) hsend
  have hvalid : (p.txErr && txValid s) = true := by rw [herr, (Ports.txValid_iff s).mpr hsend, Bool.and_self]
  rw [runCycle, cycleEvents_of_no_reset hrst, if_pos hlink, List.nil_append, if_pos hvalid,
    cmdReady_of_busy (by simp [hsend]), if_neg Bool.false_ne_true, List.append_nil, List.singleton_append,
    runEvents_cons (e := .txerr) hfails, runEvents_cons (e := .txerr) hfails,
    runEvents_of_idle rfl (needsCommand_unitEvents s p)]

/-- In an idle engine the last event of a cycle is the offering of the first command word held. -/
theorem cycleEvents_of_idle {p : CycleInputs} {s : State} (hrst : p.rst = false) (hidle : s.seq = .idle) :
    cycleEvents s p =
      (if p.linkOpen = s.link then [] else [.link p.linkOpen]) ++
        (unitEvents s p ++ (writeEvents p ++ [.offerCommand])) := by
  rw [cycleEvents_of_no_reset hrst, txValid_of_idle hidle, Bool.and_false, if_neg Bool.false_ne_true, List.nil_append,
    if_pos ((cmdReady_iff s).mpr hidle)]

/-- Settles O50, situation by situation. -/
theorem eventsOfACycleComeInTheirOrder : Obligations.EventsOfACycleComeInTheirOrder := by
  intro p s
  refine ⟨fun hrst hinbox => ?_, fun hrst => ?_⟩
  · have hevents : (offerCycle p s).inbox = [.reset p.linkOpen] := by
      show s.inbox ++ cycleEvents s p = _
      rw [hinbox, cycleEvents, if_pos hrst, List.nil_append]
    have hbase : stepBase (offerCycle p s) =
        { cycleArrivals p s with resValid := false, tickSync := false, draws := s.draws + 1 } := by
      rw [stepBase, hevents, List.tail_cons, ← hinbox]
      rfl
    rw [step_eq, nextEvent_cons hevents, hbase]
  · refine ⟨runCycle_linkFalls hrst, runCycle_sendFails hrst, fun w ws hidle hport => ⟨fun i v hlink hpay hi => ?_,
      fun hopen hlink hpay => ?_⟩⟩
    · have hwrite : onEvent (.paywr i v) (cycleArrivals p s) =
          .next { cycleArrivals p s with payload := s.payload.write i.toNat v } :=
        congrArg Host.Outcome.next (if_pos (Nat.lt_succ_of_le hi))
      have hwrites : writeEvents p = [.paywr i v] := by rw [writeEvents, hpay]; rfl
      rw [runCycle, cycleEvents_of_idle hrst hidle, if_pos hlink, List.nil_append,
        runEvents_of_idle (s := cycleArrivals p s) hidle (needsCommand_unitEvents s p), hwrites, List.singleton_append,
        runEvents_cons hwrite, Ports.runEvents_singleton]
      exact Transitions.takeHeldCommand_accepts
        (s := { cycleArrivals p s with payload := s.payload.write i.toNat v }) hidle hport
    · have hclose : onEvent (.link false) (cycleArrivals p s) = .next { cycleArrivals p s with link := false } :=
        (onLink_closes (s := cycleArrivals p s) hlink).trans (congrArg Host.Outcome.next (linkLost_of_idle hidle))
      have hwrites : writeEvents p = [] := by rw [writeEvents, hpay]; rfl
      rw [runCycle, cycleEvents_of_idle hrst hidle, hopen, if_neg (by simp [hlink]), List.singleton_append,
        runEvents_cons hclose,
        runEvents_of_idle (s := { cycleArrivals p s with link := false }) hidle (needsCommand_unitEvents s p), hwrites,
        List.nil_append, Ports.runEvents_singleton]
      exact Transitions.takeHeldCommand_accepts (s := { cycleArrivals p s with link := false }) hidle hport

end Cycles

end Sys2Proof.Machine
